-- ==== Sys2Proof/Word.lean ====
section
/-! DEFINITION. The block's word types (R6, R7): every bus byte, operand byte and result byte is 8 bits; the
command word, `YEAR_IN` and `RES_YEAR` are 16 bits. Every value is unsigned. -/

namespace Sys2Proof

/-- An 8-bit value; bit 0 is the least significant (R7). -/
abbrev Byte := BitVec 8

/-- A 16-bit value: the command word and the year (R6). -/
abbrev Half := BitVec 16

end Sys2Proof
end

