-- ==== Sys2Proof/Syntax.lean ====
section
/-! DEFINITION. Commands as the host issues them (R30, R70) and the ten decoded commands of the block (R71), one
constructor per row of spec/opcode_table.json. -/

namespace Sys2Proof

/-- The register ids 0 to 10 of R74, in order. Ids 11 to 15 are reserved and have no constructor. -/
inductive RegId where
  | seconds | minutes | hours | date | month | day | year | writeProtect | clockBurst | ram | ramBurst
  deriving DecidableEq, Repr

/-- The operand ports of R30, sampled when a command is issued. -/
structure Ports where
  yearIn  : Half
  monthIn : Byte
  dateIn  : Byte
  dayIn   : Byte
  hourIn  : Byte
  minIn   : Byte
  secIn   : Byte
  deriving DecidableEq, Repr

/-- One command as issued (R70): the 16-bit word `CMD` together with the operand ports. -/
structure Command where
  cmd   : Half
  ports : Ports
  deriving DecidableEq, Repr

/-- The ten commands of R71 with their operands (R72, R80). -/
inductive Instr where
  /-- BCD_ENC (R104). -/
  | bcdEnc (imm8 : Byte)
  /-- BCD_DEC (R105). -/
  | bcdDec (imm8 : Byte)
  /-- BIT_REV (R114). -/
  | bitRev (imm8 : Byte)
  /-- MAKE_ADDR (R115): `read` is the bit `R` (true = read), `reg` is `REG`. -/
  | makeAddr (read : Bool) (reg : RegId)
  /-- INIT (R120). -/
  | init
  /-- GET_SECONDS (R130). -/
  | getSeconds
  /-- SET_SECONDS (R131). -/
  | setSeconds (imm8 : Byte)
  /-- GET_CLOCK (R140). -/
  | getClock
  /-- GET_CAL_CLOCK (R141). -/
  | getCalClock
  /-- SET_CAL_CLOCK (R142). Its operands are the ports, arguments of the command (R30). -/
  | setCalClock (ports : Ports)
  deriving DecidableEq, Repr

end Sys2Proof
end

