-- ==== Sys2Proof/Config.lean ====
section
/-! DEFINITION. What is fixed for a run: the launch parameters of R6 (plain data, carried by State because the host
fixes the type of the step; log entries 1 and 2), and the free values behind every draw of the spec (R8, R43),
opaque constants of which nothing can be proved (log entry 3). -/

namespace Sys2Proof

/-- Whether the `k`-th transport call of a run returns `ok` (true) or `err` (false): a draw (R43). FREE VALUE. -/
opaque Config.transportOk : Nat → Bool

/-- The `k`-th unconstrained byte of a run: `draw8()` (R8), and each byte of a transfer that nothing fixes (R43).
FREE VALUE. -/
opaque Config.drawByte : Nat → Byte

/-- The natural register constants `NAT` (R74), one per register id. -/
structure NatMap where
  seconds      : Byte
  minutes      : Byte
  hours        : Byte
  date         : Byte
  month        : Byte
  day          : Byte
  year         : Byte
  writeProtect : Byte
  clockBurst   : Byte
  ram          : Byte
  ramBurst     : Byte
  deriving DecidableEq, Repr

/-- `NAT(r)` (R74). -/
def NatMap.get (nat : NatMap) : RegId → Byte
  | .seconds => nat.seconds
  | .minutes => nat.minutes
  | .hours => nat.hours
  | .date => nat.date
  | .month => nat.month
  | .day => nat.day
  | .year => nat.year
  | .writeProtect => nat.writeProtect
  | .clockBurst => nat.clockBurst
  | .ram => nat.ram
  | .ramBurst => nat.ramBurst

/-- The eleven register ids in the order of R74. -/
def RegId.all : List RegId :=
  [.seconds, .minutes, .hours, .date, .month, .day, .year, .writeProtect, .clockBurst, .ram, .ramBurst]

/-- `P_DAY_DECODE` (R6). -/
inductive DayDecode where
  | bcd | plain
  deriving DecidableEq, Repr

/-- `P_CHIP_TICKS` (R6, R64). -/
inductive ChipTicks where
  | frozen | free
  deriving DecidableEq, Repr

/-- The parameters of R6, constant for a whole run (R184). -/
structure Params where
  /-- `NAT`. -/
  nat : NatMap
  /-- `P_CLOCK_READ_REVERSED`. -/
  clockReadReversed : Bool
  /-- `P_BURST_WRITE_ADDR_REVERSED`. -/
  burstWriteAddrReversed : Bool
  /-- `P_DECODE_CHECK`. -/
  decodeCheck : Bool
  /-- `P_DAY_DECODE`. -/
  dayDecode : DayDecode
  /-- `P_WP_BIT`, a parameter of the reference chip. -/
  wpBit : Fin 8
  /-- `P_CHIP_TICKS`, a parameter of the reference chip. -/
  chipTicks : ChipTicks
  /-- `P_RAM_SIZE`, a parameter of the reference chip. -/
  ramSize : Nat
  deriving DecidableEq, Repr

/-- `READ_FLAG`, fixed by the source (R6, R75). -/
def readFlag : Byte := 0x01

/-- The suggested natural constants of I-GK2. Only SECONDS is the source's; the others are PRESUMED, from the
DS1302 family (log entry 1, unsafe). -/
def NatMap.suggested : NatMap where
  seconds := 0x80
  minutes := 0x82
  hours := 0x84
  date := 0x86
  month := 0x88
  day := 0x8A
  year := 0x8C
  writeProtect := 0x8E
  clockBurst := 0xBE
  ram := 0xC0
  ramBurst := 0xFE

/-- The defaults of R6, with `NAT` as in `NatMap.suggested` (log entry 1); `P_WP_BIT` PRESUMED and `P_RAM_SIZE`
DESIGN CHOICE (log entry 2). -/
def Params.default : Params where
  nat := NatMap.suggested
  clockReadReversed := false
  burstWriteAddrReversed := false
  decodeCheck := false
  dayDecode := .bcd
  wpBit := 7
  chipTicks := .frozen
  ramSize := 0

end Sys2Proof
end

