-- ==== Sys2Proof/WellFormed.lean ====
section
/-! DEFINITION. The two well-formedness checks of the spec: a legal command word (R72, R73, written from the match
and mask columns, independently of the decoder) and a well-formed parameter set (R75). Every term of `Instr` is
well formed by its type: an operand byte is any byte and a register id is one of the eleven. -/

namespace Sys2Proof

/-- The match and mask words of R72, one pair per row of the opcode map R71 (spec/opcode_table.json). -/
def commandRows : List (Half × Half) :=
  [(0x1000, 0xFF00), (0x2000, 0xFF00), (0x3000, 0xFF00), (0x4000, 0xFEF0), (0x5000, 0xFFFF),
   (0x6000, 0xFFFF), (0x7000, 0xFF00), (0x8000, 0xFFFF), (0x9000, 0xFFFF), (0xA000, 0xFFFF)]

/-- The word has a row's opcode and none of its must-be-zero bits (R72). -/
def Half.matchesRow (w : Half) : Bool :=
  commandRows.any fun row => w &&& row.2 == row.1

/-- The word is of format A and names a reserved register id (R73, third point). -/
def Half.reservedReg (w : Half) : Bool :=
  w &&& 0xF000 == 0x4000 && decide (10 < (w &&& 0x000F).toNat)

/-- A command word is legal when no point of R73 holds. -/
def Half.legal (w : Half) : Bool :=
  w.matchesRow && !w.reservedReg

/-- R75 (a): `NAT(SECONDS) = 0x80`. -/
def NatMap.secondsFixed (nat : NatMap) : Bool :=
  nat.seconds == 0x80

/-- R75 (b): bit 0 of every natural constant is 0. -/
def NatMap.flagBitClear (nat : NatMap) : Bool :=
  RegId.all.all fun r => !(nat.get r).getLsbD 0

/-- R75 (c): the eleven values are pairwise distinct. -/
def NatMap.distinct (nat : NatMap) : Bool :=
  decide (RegId.all.map nat.get).Nodup

/-- A parameter set that meets R75; one that does not is refused. -/
def Params.wf (p : Params) : Bool :=
  p.nat.secondsFixed && p.nat.flagBitClear && p.nat.distinct

end Sys2Proof
end

