-- ==== Sys2Proof/Decode.lean ====
section
/-! DEFINITION. The decoder (R70, R72, R73, R80, R81), total on all 65,536 words and rejecting by name; after it the
encoder, written from the same field tables, and the assembler syntax of R84. -/

namespace Sys2Proof

/-- Why a command word is illegal: the three points of R73. Each raises IllegalCommand (R162). -/
inductive Illegal where
  /-- `OPC` is reserved (0x0 or 0xB to 0xF). -/
  | reservedOpcode
  /-- A must-be-zero bit of the format is 1. -/
  | mustBeZero
  /-- The format is A and `REG` is greater than 10. -/
  | reservedRegister
  deriving DecidableEq, Repr

/-- The register id numbered `n` (R74); none for the reserved ids. -/
def RegId.ofId (n : BitVec 4) : Option RegId :=
  RegId.all[n.toNat]?

/-- The 4-bit id of a register (R74). -/
def RegId.id : RegId → BitVec 4
  | .seconds => 0
  | .minutes => 1
  | .hours => 2
  | .date => 3
  | .month => 4
  | .day => 5
  | .year => 6
  | .writeProtect => 7
  | .clockBurst => 8
  | .ram => 9
  | .ramBurst => 10

/-- `OPC` (R70). -/
def Half.opc (w : Half) : BitVec 4 := w.extractLsb' 12 4

/-- `imm8` of format B (R72, R80). -/
def Half.imm8 (w : Half) : Byte := w.extractLsb' 0 8

/-- Format Z (R72): `OPND` must be 0. -/
def decodeZ (i : Instr) (w : Half) : Except Illegal Instr :=
  if w.extractLsb' 0 12 = 0 then .ok i else .error .mustBeZero

/-- Format B (R72): `OPND[11:8]` must be 0 and `OPND[7:0]` is `imm8`. -/
def decodeB (op : Byte → Instr) (w : Half) : Except Illegal Instr :=
  if w.extractLsb' 8 4 = 0 then .ok (op w.imm8) else .error .mustBeZero

/-- Format A (R72): `OPND[11:9]` and `OPND[7:4]` must be 0, `OPND[8]` is `R`, `OPND[3:0]` is `REG`. -/
def decodeA (op : Bool → RegId → Instr) (w : Half) : Except Illegal Instr :=
  if w.extractLsb' 9 3 = 0 ∧ w.extractLsb' 4 4 = 0 then
    match RegId.ofId (w.extractLsb' 0 4) with
    | some r => .ok (op (w.getLsbD 8) r)
    | none => .error .reservedRegister
  else .error .mustBeZero

/-- The decode procedure of R81, with the operand ports of R30 as SET_CAL_CLOCK's arguments. -/
def decode (c : Command) : Except Illegal Instr :=
  match c.cmd.opc.toNat with
  | 0x1 => decodeB .bcdEnc c.cmd
  | 0x2 => decodeB .bcdDec c.cmd
  | 0x3 => decodeB .bitRev c.cmd
  | 0x4 => decodeA .makeAddr c.cmd
  | 0x5 => decodeZ .init c.cmd
  | 0x6 => decodeZ .getSeconds c.cmd
  | 0x7 => decodeB .setSeconds c.cmd
  | 0x8 => decodeZ .getClock c.cmd
  | 0x9 => decodeZ .getCalClock c.cmd
  | 0xA => decodeZ (.setCalClock c.ports) c.cmd
  | _ => .error .reservedOpcode

/-- Every port at 0: what a command that reads no port is encoded with. -/
def Ports.zero : Ports where
  yearIn := 0
  monthIn := 0
  dateIn := 0
  dayIn := 0
  hourIn := 0
  minIn := 0
  secIn := 0

/-- A word of format B with the given opcode (R72). -/
def wordB (opc : BitVec 4) (imm8 : Byte) : Half := opc ++ 0#4 ++ imm8

/-- A word of format Z with the given opcode (R72). -/
def wordZ (opc : BitVec 4) : Half := opc ++ 0#12

/-- A word of format A with the given opcode (R72). -/
def wordA (opc : BitVec 4) (read : Bool) (reg : RegId) : Half :=
  opc ++ 0#3 ++ BitVec.ofBool read ++ 0#4 ++ reg.id

/-- The command word of an instruction (R71, R72). -/
def Instr.word : Instr → Half
  | .bcdEnc v => wordB 0x1 v
  | .bcdDec b => wordB 0x2 b
  | .bitRev b => wordB 0x3 b
  | .makeAddr rd r => wordA 0x4 rd r
  | .init => wordZ 0x5
  | .getSeconds => wordZ 0x6
  | .setSeconds v => wordB 0x7 v
  | .getClock => wordZ 0x8
  | .getCalClock => wordZ 0x9
  | .setCalClock _ => wordZ 0xA

/-- The operand ports an instruction is issued with: only SET_CAL_CLOCK reads them (R30). -/
def Instr.ports : Instr → Ports
  | .setCalClock p => p
  | _ => Ports.zero

/-- The encoder: the command that issues an instruction. -/
def encode (i : Instr) : Command where
  cmd := i.word
  ports := i.ports

/-- The command of `nbits` bits `w`, numbered as spec/opcode_table.json numbers them, with zeros above and every
operand port 0 (log entry 5). -/
def tableCommand (nbits w : Nat) : Command where
  cmd := BitVec.ofNat 16 (w % 2 ^ nbits)
  ports := Ports.zero

/-- The instruction the decoder reads from the table word `w`; none where the decoder rejects it. -/
def decodeTableWord (nbits w : Nat) : Option Instr :=
  match decode (tableCommand nbits w) with
  | .ok i => some i
  | .error _ => none

/-- `REGNAME` of R84, the names of R74. -/
def RegId.name : RegId → String
  | .seconds => "SECONDS"
  | .minutes => "MINUTES"
  | .hours => "HOURS"
  | .date => "DATE"
  | .month => "MONTH"
  | .day => "DAY"
  | .year => "YEAR"
  | .writeProtect => "WRITE_PROTECT"
  | .clockBurst => "CLOCK_BURST"
  | .ram => "RAM"
  | .ramBurst => "RAM_BURST"

/-- A decimal immediate in the syntax of R84. -/
def immText (v : Byte) : String := " #" ++ toString v.toNat

/-- The port values of SET_CAL_CLOCK in the syntax of R84, between its braces (characters 0x7B and 0x7D). -/
def Ports.text (p : Ports) : String :=
  String.singleton (Char.ofNat 0x7B) ++ "year=" ++ toString p.yearIn.toNat ++ ", month=" ++ toString p.monthIn.toNat
    ++ ", date=" ++ toString p.dateIn.toNat ++ ", day=" ++ toString p.dayIn.toNat
    ++ ", hours=" ++ toString p.hourIn.toNat ++ ", minutes=" ++ toString p.minIn.toNat
    ++ ", seconds=" ++ toString p.secIn.toNat ++ String.singleton (Char.ofNat 0x7D)

/-- The line of R84 that the spec's assembler reads for an instruction; `encode` is the word and the ports it
emits for that line. -/
def Instr.asm : Instr → String
  | .bcdEnc v => "BCD_ENC" ++ immText v
  | .bcdDec b => "BCD_DEC" ++ immText b
  | .bitRev b => "BIT_REV" ++ immText b
  | .makeAddr rd r => "MAKE_ADDR " ++ r.name ++ (if rd then ", rd" else ", wr")
  | .init => "INIT"
  | .getSeconds => "GET_SECONDS"
  | .setSeconds v => "SET_SECONDS" ++ immText v
  | .getClock => "GET_CLOCK"
  | .getCalClock => "GET_CAL_CLOCK"
  | .setCalClock p => "SET_CAL_CLOCK " ++ p.text

end Sys2Proof
end

