-- ==== Sys2Proof/Machine/State.lean ====
section
/-! DEFINITION. The state of a run, as plain data: the block's registers (R31), the launch parameters (R6), the
draws to come (R8, R43), the reference chip when one is modelled (R57), the event history (R45) and the host's moves
to come (R30, R70, R180, R29). Then the reset state and the reasons a step can stop. -/

namespace Sys2Proof.Machine

/-- `INIT_STATE` (R22). -/
inductive InitState where
  | uninit | ready
  deriving DecidableEq, Repr

/-- The codes `ERR` takes (R25, R160); codes 6 and 7 are never produced and have no constructor. -/
inductive ErrCode where
  | ok | transportError | illegalCommand | notInitialised | alreadyInitialised | decodeError
  deriving DecidableEq, Repr

/-- The block's complete architectural state (R31). `STATUS` is a view of the first three fields (R24). A result
register holds no value until a command succeeds in writing it: `none` is the spec's own reset value (R29, R180). -/
structure Regs where
  initState : InitState
  fault     : Bool
  err       : ErrCode
  resByte   : Option Byte
  resSec    : Option Byte
  resMin    : Option Byte
  resHour   : Option Byte
  resYear   : Option Half
  resMonth  : Option Byte
  resDate   : Option Byte
  resDay    : Option Byte
  deriving DecidableEq, Repr

/-- The value of every block register after reset (R31, R180). -/
def Regs.reset : Regs where
  initState := .uninit
  fault := false
  err := .ok
  resByte := none
  resSec := none
  resMin := none
  resHour := none
  resYear := none
  resMonth := none
  resDate := none
  resDay := none

/-- The two transport primitives (R41, R42). -/
inductive CallKind where
  | write | transfer
  deriving DecidableEq, Repr

/-- The result of a transport call as the history records it (R45): `ok`, `ok(in)` or `err`. -/
inductive CallResult where
  | ok
  | okIn (bytes : List Byte)
  | err
  deriving DecidableEq, Repr

/-- One event of the history (R45): `n` is the read count, 0 for a write. -/
structure Event where
  kind   : CallKind
  out    : List Byte
  n      : Nat
  result : CallResult
  deriving DecidableEq, Repr

/-- The draws of a run (R8, R43): `oks` and `bytes` list the next ones where the launch fixes them; after them, and
in every run whose launch fixes none, a draw is the free value of Config at the running index (log entry 3). -/
structure Draws where
  oks       : List Bool
  okIndex   : Nat
  bytes     : List Byte
  byteIndex : Nat
  deriving DecidableEq, Repr

/-- A run whose launch fixes no draw. -/
def Draws.start : Draws where
  oks := []
  okIndex := 0
  bytes := []
  byteIndex := 0

/-- Byte-addressed chip storage as a list of cells: addresses strictly rising (`Memory.wf`). An unlisted address
holds no value (log entry 9). -/
abbrev Memory := List Host.Cell

/-- The eight registers the reference chip stores (R57). CLOCK_BURST and RAM_BURST are access modes (R40). -/
inductive ChipReg where
  | seconds | minutes | hours | date | month | day | year | writeProtect
  deriving DecidableEq, Repr

/-- The reference chip's state in natural form (R57), and its RAM, which nothing reaches (R49). -/
structure Chip where
  seconds      : Byte
  minutes      : Byte
  hours        : Byte
  date         : Byte
  month        : Byte
  day          : Byte
  year         : Byte
  writeProtect : Byte
  ram          : Memory
  deriving DecidableEq, Repr

/-- The registers the host can read: `STATUS` (R24) and the result registers (R26 to R28). -/
inductive HostReg where
  | status | resByte | resSec | resMin | resHour | resYear | resMonth | resDate | resDay
  deriving DecidableEq, Repr

/-- What the host does to the block between commands: issue a command (R70), drive the reset input (R180), or read a
register (R24, R29). -/
inductive HostMove where
  | command (c : Command)
  | reset
  | read (r : HostReg)
  deriving DecidableEq, Repr

/-- The state of a run (R193 lists its final part: block, history, reference chip). -/
structure State where
  /-- The block (R31). -/
  regs    : Regs
  /-- The launch parameters (R6, R184); no step changes them (log entry 1). -/
  params  : Params
  /-- The draws to come (log entry 3). -/
  draws   : Draws
  /-- The reference chip behind the transport; `none` is the block alone against the oracle of R43 (log entry 8). -/
  chip    : Option Chip
  /-- The event history, oldest first (R45). -/
  history : List Event
  /-- The host's moves to come, next first (log entry 4). -/
  inputs  : List HostMove
  deriving DecidableEq, Repr

/-- The machine right after reset: the block as R180 says, the default parameters (R6, log entries 1 and 2), nothing
drawn, no chip attached (log entry 8), no event (log entry 13) and no host move pending (log entry 4). -/
def State.reset : State where
  regs := Regs.reset
  params := Params.default
  draws := Draws.start
  chip := none
  history := []
  inputs := []

/-- The faults of the model. -/
inductive Fault where
  /-- Raised by the step that serves the host's read of a result register no successful command has written since
  reset (R29, D20, I18). Safe: the model stops, no value is read. That it stops and writes no `FAULT` is DESIGN CHOICE
  (log entry 21). -/
  | noValue (r : HostReg)
  deriving DecidableEq, Repr

/-- The refusals of the model. -/
inductive Refusal where
  /-- Raised by an arm of `exec` that has no meaning yet; no arm is left so. Safe. -/
  | notModelled (mnemonic : String)
  /-- Raised by every step of a run whose parameter set breaks R75 ("is refused"). Safe. -/
  | badParameters
  /-- Raised by SET_CAL_CLOCK when its command byte reaches the reference chip as a RAM or RAM_BURST write, which has
  no meaning in the chip ("a model refuses a run that sends one", R59, I7). Safe. -/
  | ramCommand
  deriving DecidableEq, Repr

end Sys2Proof.Machine
end

