-- ==== Sys2Proof/Machine/Operands.lean ====
section
/-! DEFINITION. The pure operand transforms: bit reversal (R110), address bytes (R76, R112), the BCD codec on the
values it defines (R100 to R102), and the wire forms of data bytes (R77, R79, R144). -/

namespace Sys2Proof.Machine

/-- `BitRev` (R110): bit i of the result is bit 7 - i of the input. -/
def bitRev (b : Byte) : Byte := b.reverse

/-- `BcdEnc` on 0..99 (R100): tens digit in the high nibble, units digit in the low. Above 99 the value is a draw,
see `State.bcdEnc`. -/
def bcdPack (v : Nat) : Byte := BitVec.ofNat 4 (v / 10) ++ BitVec.ofNat 4 (v % 10)

/-- The high nibble of a byte. -/
def hiNibble (b : Byte) : Nat := (b.extractLsb' 4 4).toNat

/-- The low nibble of a byte. -/
def loNibble (b : Byte) : Nat := (b.extractLsb' 0 4).toNat

/-- `BcdDec` (R101), total: ten times the high nibble plus the low, at most 165 (log entry 14). -/
def bcdDec (b : Byte) : Byte := BitVec.ofNat 8 (10 * hiNibble b + loNibble b)

/-- `BcdValid` (R102): both nibbles are decimal digits. -/
def bcdValid (b : Byte) : Bool := decide (hiNibble b ≤ 9) && decide (loNibble b ≤ 9)

/-- `MakeAddr` (R112): the reversal of the natural constant with the read flag ORed in for a read. -/
def makeAddr (nat : NatMap) (r : RegId) (read : Bool) : Byte :=
  bitRev (nat.get r ||| if read then readFlag else 0)

/-- Byte `k` of a sequence (R8). Only applied to indices below the length; the 0 past the end is never reached
(`State.busTransfer_length`). -/
def byteAt (s : List Byte) (k : Nat) : Byte := s.getD k 0

/-- Whether the year is one the two-digit form carries (R142, R144). -/
def yearInRange (y : Half) : Bool := decide (2000 ≤ y.toNat) && decide (y.toNat ≤ 2099)

/-- The year of a decoded two-digit value (R141, R144): 2000 + the value, 16 bits. -/
def yearOf (v : Byte) : Half := 2000 + v.zeroExtend 16

/-- The data bytes GET_CLOCK decodes (R140): reversed only with `P_CLOCK_READ_REVERSED`. -/
def clockBytes (p : Params) (received : List Byte) : List Byte :=
  if p.clockReadReversed then received.map bitRev else received

/-- The data bytes GET_CAL_CLOCK decodes (R141): the first seven, each reversed; the eighth is discarded. -/
def calBytes (received : List Byte) : List Byte := (received.take 7).map bitRev

/-- The bytes of GET_CAL_CLOCK that the optional check reads (R141): all seven, less the day byte (index 5) when it
is read as a plain integer. -/
def checkedCalBytes (p : Params) (c : List Byte) : List Byte :=
  match p.dayDecode with
  | .bcd => c
  | .plain => c.eraseIdx 5

/-- The day of week of its reversed byte (R141, C6). -/
def decodeDay (p : Params) (b : Byte) : Byte :=
  match p.dayDecode with
  | .bcd => bcdDec b
  | .plain => b

end Sys2Proof.Machine
end

