-- ==== Sys2Proof/Machine/Chip.lean ====
section
/-! DEFINITION. The reference chip (R57 to R66): what it holds, how it decodes a command byte, which registers a
frame writes and which bytes it answers. Only the transport calls of Ops.lean use it. -/

namespace Sys2Proof.Machine

/-- The RAM is in canonical form: addresses strictly rising. -/
def Memory.wf (m : Memory) : Bool :=
  decide ((m.map Prod.fst).Pairwise (· < ·))

/-- `N[r]` (R57). -/
def Chip.get (c : Chip) : ChipReg → Byte
  | .seconds => c.seconds
  | .minutes => c.minutes
  | .hours => c.hours
  | .date => c.date
  | .month => c.month
  | .day => c.day
  | .year => c.year
  | .writeProtect => c.writeProtect

/-- `N[r] <- v` (R57). -/
def Chip.set (c : Chip) (r : ChipReg) (v : Byte) : Chip :=
  match r with
  | .seconds => { c with seconds := v }
  | .minutes => { c with minutes := v }
  | .hours => { c with hours := v }
  | .date => { c with date := v }
  | .month => { c with month := v }
  | .day => { c with day := v }
  | .year => { c with year := v }
  | .writeProtect => { c with writeProtect := v }

/-- The clock-halt flag `CH` (R57). -/
def Chip.halted (c : Chip) : Bool := c.seconds.getLsbD 7

/-- The write-protect flag `WPF` (R57). -/
def Chip.writeProtected (p : Params) (c : Chip) : Bool := c.writeProtect.getLsbD p.wpBit.val

/-- The burst order (R50). -/
def burstOrder : List ChipReg :=
  [.seconds, .minutes, .hours, .date, .month, .day, .year, .writeProtect]

/-- The seven time and date registers, which move with time (R64). -/
def timeRegs : List ChipReg :=
  [.seconds, .minutes, .hours, .date, .month, .day, .year]

/-- The chip register a register id selects on its own; none for the access modes and the RAM (R40). -/
def chipRegOf : RegId → Option ChipReg
  | .seconds => some .seconds
  | .minutes => some .minutes
  | .hours => some .hours
  | .date => some .date
  | .month => some .month
  | .day => some .day
  | .year => some .year
  | .writeProtect => some .writeProtect
  | .clockBurst => none
  | .ram => none
  | .ramBurst => none

/-- A command byte as the chip reads it (R59). -/
inductive ChipCommand where
  | read (r : RegId)
  | write (r : RegId)
  | unknown
  deriving DecidableEq, Repr

/-- The register id whose natural constant is `n`; none if no id has it (R59). -/
def regOfNat (nat : NatMap) (n : Byte) : Option RegId :=
  RegId.all.find? fun r => nat.get r == n

/-- Command decoding (R59): the natural command is the reversed byte, its bit 0 the direction. -/
def chipCommand (p : Params) (x : Byte) : ChipCommand :=
  let c := bitRev x
  match regOfNat p.nat (c &&& 0xFE) with
  | none => .unknown
  | some r => if c.getLsbD 0 then .read r else .write r

/-- Whether the command byte is a RAM or RAM_BURST write, which has no meaning in the reference chip (R59). A read
command in a write frame is a mismatch and has no effect, whatever its register (R59; log entry 10). -/
def isRamWrite (p : Params) (x : Byte) : Bool :=
  match chipCommand p x with
  | .write .ram => true
  | .write .ramBurst => true
  | _ => false

/-- What a burst write of the given data bytes writes (R62): with eight or more, every register its natural value;
with one to seven, each register reached but the year a draw (`none`), the year and write-protect unchanged. -/
def burstWrites (data : List Byte) : List (ChipReg × Option Byte) :=
  if 8 ≤ data.length then burstOrder.zip (data.map fun d => some (bitRev d))
  else ((burstOrder.take data.length).filter (· ≠ .year)).map fun r => (r, none)

/-- What a write command of register `r` with the given data bytes writes. A single-register write takes the first data
byte and ignores the rest (R60); while write-protect is set only WRITE_PROTECT itself takes a write (R61). RAM and
RAM_BURST writes have no meaning and are refused before they are sent (`isRamWrite`). -/
def Chip.regWrites (p : Params) (c : Chip) (r : RegId) (data : List Byte) : List (ChipReg × Option Byte) :=
  match r with
  | .clockBurst => if c.writeProtected p then [] else burstWrites data
  | .writeProtect => (data.take 1).map fun d => (.writeProtect, some (bitRev d))
  | _ =>
    match chipRegOf r with
    | some q => if c.writeProtected p then [] else (data.take 1).map fun d => (q, some (bitRev d))
    | none => []

/-- The registers a write frame writes when the call succeeds, with their values (`none` is a draw): R59 to R62. A read
command and an unknown command write nothing (R59), nor does a frame without a command byte (log entry 15). -/
def Chip.writes (p : Params) (c : Chip) (frame : List Byte) : List (ChipReg × Option Byte) :=
  match frame with
  | [] => []
  | x :: data =>
    match chipCommand p x with
    | .write r => c.regWrites p r data
    | .read _ => []
    | .unknown => []

/-- The registers that a write frame leaves unspecified when the call fails, whatever write-protect was (R65, I3, I4,
log entry 20): the target of a single-register frame, and all eight for a burst frame. A frame with more than one data byte
is a burst frame, SET_CAL_CLOCK's alone (R78), whatever the chip would take its command byte for (R190). -/
def failedTargets (p : Params) (frame : List Byte) : List ChipReg :=
  match frame with
  | [] => []
  | [_] => []
  | [x, _] =>
    match chipCommand p x with
    | .write .clockBurst => burstOrder
    | .write r => (chipRegOf r).toList
    | .read _ => []
    | .unknown => []
  | _ :: _ :: _ :: _ => burstOrder

/-- The bytes of a read frame's answer that the chip fixes (R63), at most `n` of them; the rest of the `n` are draws.
An unknown command and a direction mismatch fix none (R59). -/
def Chip.answer (p : Params) (c : Chip) (out : List Byte) (n : Nat) : List Byte :=
  match out with
  | [] => []
  | x :: _ =>
    match chipCommand p x with
    | .read .clockBurst => (burstOrder.take n).map fun r => bitRev (c.get r)
    | .read r =>
      match chipRegOf r with
      | some q => [bitRev (c.get q)].take n
      | none => []
    | _ => []

end Sys2Proof.Machine
end

