-- ==== Sys2Proof/Machine/Flags.lean ====
section
/-! DEFINITION. The outcome fields: `ERR` codes (R160), which of them set `FAULT` (R23, R160), and the `STATUS` byte
(R24). The block has no arithmetic flags (R32). -/

namespace Sys2Proof.Machine

/-- The 3-bit value of `ERR` (R25, R160). -/
def ErrCode.code : ErrCode → BitVec 3
  | .ok => 0
  | .transportError => 1
  | .illegalCommand => 2
  | .notInitialised => 3
  | .alreadyInitialised => 4
  | .decodeError => 5

/-- Whether the code is a fault, which sets `FAULT` (R160, R166). -/
def ErrCode.isFault : ErrCode → Bool
  | .ok => false
  | .transportError => false
  | .illegalCommand => true
  | .notInitialised => true
  | .alreadyInitialised => true
  | .decodeError => true

/-- The bit of `INIT_STATE` (R22): 0 is UNINIT, 1 is READY. -/
def InitState.bit : InitState → Bool
  | .uninit => false
  | .ready => true

/-- `STATUS` (R24): reserved bits 7:5 zero, `INIT_STATE` in 4, `FAULT` in 3, `ERR` in 2:0. -/
def Regs.status (r : Regs) : Byte :=
  0#3 ++ BitVec.ofBool r.initState.bit ++ BitVec.ofBool r.fault ++ r.err.code

/-- An error taken by the block (R168): `ERR` gets the code, a fault sets the sticky `FAULT`, nothing else changes. -/
def Regs.raise (e : ErrCode) (r : Regs) : Regs :=
  { r with err := e, fault := r.fault || e.isFault }

/-- Success (R24): `ERR` gets `OK`; `FAULT` keeps its value (R23). -/
def Regs.complete (r : Regs) : Regs :=
  { r with err := .ok }

end Sys2Proof.Machine
end

