-- ==== Sys2Proof/Machine/Ops.lean ====
section
/-! DEFINITION. The operations the meanings are written over: draws (R8, R43), writing the block's registers (R23 to
R28), taking an error (R168), the two transport primitives with their events (R41, R42, R45) and the chip behind them
(R59 to R65), the sub-operations of R132 and R133, reset (R180, R181) and the host's reads (R24, R29). There is no
return from an error (R169): the block is idle and takes the next command. -/

namespace Sys2Proof.Machine

/-! ### Draws -/

/-- The `k`-th next draw of a transport call's outcome (R43). -/
def Draws.okAt (d : Draws) (k : Nat) : Bool :=
  (d.oks[k]?).getD (Config.transportOk (d.okIndex + k))

/-- The `k`-th next drawn byte (R8, R43). -/
def Draws.byteAt (d : Draws) (k : Nat) : Byte :=
  (d.bytes[k]?).getD (Config.drawByte (d.byteIndex + k))

/-- One outcome taken. -/
def Draws.dropOk (d : Draws) : Draws :=
  { d with oks := d.oks.drop 1, okIndex := d.okIndex + 1 }

/-- `n` bytes taken. -/
def Draws.dropBytes (n : Nat) (d : Draws) : Draws :=
  { d with bytes := d.bytes.drop n, byteIndex := d.byteIndex + n }

/-- Draw whether a transport call succeeds (R43). -/
def State.drawOk (s : State) : Bool × State :=
  (s.draws.okAt 0, { s with draws := s.draws.dropOk })

/-- `n` draws of a byte (R8), first drawn first. -/
def State.drawBytes (n : Nat) (s : State) : List Byte × State :=
  ((List.range n).map s.draws.byteAt, { s with draws := s.draws.dropBytes n })

/-- `draw8()` (R8). -/
def State.draw8 (s : State) : Byte × State :=
  (s.draws.byteAt 0, { s with draws := s.draws.dropBytes 1 })

/-- `BcdEnc` (R100): exact on 0..99, a draw above (log entry 16). -/
def State.bcdEnc (v : Nat) (s : State) : Byte × State :=
  if v ≤ 99 then (bcdPack v, s) else s.draw8

/-- The two-digit year byte of SET_CAL_CLOCK before reversal, `Y` of R142: a draw outside 2000..2099. -/
def State.bcdYear (y : Half) (s : State) : Byte × State :=
  if yearInRange y then s.bcdEnc (y.toNat - 2000) else s.draw8

/-! ### The block's registers -/

/-- End the command with an error (R168): the one error entry of the block. -/
def State.raise (e : ErrCode) (s : State) : State :=
  { s with regs := s.regs.raise e }

/-- End the command with success (R24): `ERR <- OK`. -/
def State.complete (s : State) : State :=
  { s with regs := s.regs.complete }

/-- `RES_BYTE <- v` (R26). -/
def State.setResByte (v : Byte) (s : State) : State :=
  { s with regs := { s.regs with resByte := some v } }

/-- The three fields of `RES_CLK` written together (R27). -/
def State.setResClk (sec min hour : Byte) (s : State) : State :=
  { s with regs := { s.regs with resSec := some sec, resMin := some min, resHour := some hour } }

/-- The four fields of `RES_CAL` written together (R28). -/
def State.setResCal (year : Half) (month date day : Byte) (s : State) : State :=
  { s with regs := { s.regs with
      resYear := some year, resMonth := some month, resDate := some date, resDay := some day } }

/-- `INIT_STATE <- READY` (R22). -/
def State.becomeReady (s : State) : State :=
  { s with regs := { s.regs with initState := .ready } }

/-! ### The transport -/

/-- Append one event to the history (R45). -/
def State.record (e : Event) (s : State) : State :=
  { s with history := s.history ++ [e] }

/-- The chip behind the transport is now `c`. -/
def State.setChip (c : Chip) (s : State) : State :=
  { s with chip := some c }

/-- Write a list of chip registers in order; `none` is a draw (R62, R65). -/
def State.storeAll (c : Chip) : List (ChipReg × Option Byte) → State → Chip × State
  | [], s => (c, s)
  | (r, some v) :: ws, s => State.storeAll (c.set r v) ws s
  | (r, none) :: ws, s => State.storeAll (c.set r s.draw8.1) ws s.draw8.2

/-- The values the time registers may take between two calls under `P_CHIP_TICKS = free` (R64): any, with bit 7 of
seconds 0. -/
def Chip.ticked (c : Chip) (s : State) : Chip × State :=
  let t := State.storeAll c (timeRegs.map fun r => (r, none)) s
  (t.1.set .seconds (t.1.seconds &&& 0x7F), t.2)

/-- Time passing before a transport call (R64): between any two calls of a run, on a running chip, under
`P_CHIP_TICKS = free`; else nothing (log entry 11). -/
def State.tick (s : State) : State :=
  match s.chip with
  | none => s
  | some c =>
    if s.params.chipTicks = .free ∧ c.halted = false ∧ s.history ≠ [] then
      let t := c.ticked s
      t.2.setChip t.1
    else s

/-- The chip's part of a `BusWrite`: the writes of R60 to R62 when the call succeeds; when it fails, a draw for each
register the frame leaves unspecified (R65, R190). -/
def State.chipWrite (ok : Bool) (frame : List Byte) (s : State) : State :=
  match s.chip with
  | none => s
  | some c =>
    let ws := if ok then c.writes s.params frame else (failedTargets s.params frame).map fun r => (r, none)
    let t := State.storeAll c ws s
    t.2.setChip t.1

/-- The `n` bytes of a successful `BusTransfer`: what the chip fixes, then draws (R63); all draws with no chip (R43). -/
def State.reply (out : List Byte) (n : Nat) (s : State) : List Byte × State :=
  let known := match s.chip with
    | none => []
    | some c => c.answer s.params out n
  let t := s.drawBytes (n - known.length)
  (known ++ t.1, t.2)

/-- `BusWrite(frame)` (R41): whether it returned `ok`, and the state after it with the event recorded (R45). -/
def State.busWrite (frame : List Byte) (s : State) : Bool × State :=
  let d := s.tick.drawOk
  let t := d.2.chipWrite d.1 frame
  (d.1, t.record { kind := .write, out := frame, n := 0, result := if d.1 then .ok else .err })

/-- `BusTransfer(out, n)` (R42): the bytes received on `ok`, none on `err` (whatever arrived before the failure is
discarded), and the state after it with the event recorded (R45). -/
def State.busTransfer (out : List Byte) (n : Nat) (s : State) : Option (List Byte) × State :=
  let d := s.tick.drawOk
  if d.1 then
    let t := d.2.reply out n
    (some t.1, t.2.record { kind := .transfer, out := out, n := n, result := .okIn t.1 })
  else
    (none, d.2.record { kind := .transfer, out := out, n := n, result := .err })

/-- `MakeAddr` under the run's parameters (R112). -/
def State.addr (s : State) (r : RegId) (read : Bool) : Byte :=
  makeAddr s.params.nat r read

/-- `RdSecondsRaw()` (R132): the received byte, or none on `err`. -/
def State.rdSecondsRaw (s : State) : Option Byte × State :=
  let r := s.busTransfer [s.addr .seconds true] 1
  (r.1.map fun bytes => byteAt bytes 0, r.2)

/-- `WrSeconds(v)` (R133). -/
def State.wrSeconds (v : Nat) (s : State) : Bool × State :=
  let e := s.bcdEnc v
  e.2.busWrite [s.addr .seconds false, bitRev e.1]

/-- End a command whose last act was a `BusWrite`: success, or TransportError (R161). -/
def State.endWrite (r : Bool × State) : State :=
  if r.1 then r.2.complete else r.2.raise .transportError

/-- Check 2 of R167 for a bus command: NotInitialised before INIT has succeeded (R163), with no transaction. -/
def State.requireReady (body : State → Host.Outcome State Fault Refusal) (s : State) :
    Host.Outcome State Fault Refusal :=
  match s.regs.initState with
  | .uninit => .next (s.raise .notInitialised)
  | .ready => body s

/-! ### The host's other moves -/

/-- The reset input (R180, R181): every block register to its reset value; no transaction, the chip untouched. -/
def State.blockReset (s : State) : State :=
  { s with regs := Regs.reset }

/-- IllegalCommand for an illegal word (R162). -/
def State.illegal (s : State) : State :=
  s.raise .illegalCommand

/-- The value the host reads from a register, zero-extended to 16 bits; none where it holds no value (R24, R29). -/
def Regs.hostValue (r : Regs) : HostReg → Option Half
  | .status => some (r.status.zeroExtend 16)
  | .resByte => r.resByte.map (·.zeroExtend 16)
  | .resSec => r.resSec.map (·.zeroExtend 16)
  | .resMin => r.resMin.map (·.zeroExtend 16)
  | .resHour => r.resHour.map (·.zeroExtend 16)
  | .resYear => r.resYear
  | .resMonth => r.resMonth.map (·.zeroExtend 16)
  | .resDate => r.resDate.map (·.zeroExtend 16)
  | .resDay => r.resDay.map (·.zeroExtend 16)

/-- A host read (R24, R29): it changes nothing, and it is a fault of the model when the register holds no value. That this
fault ends the run and does not also record `FAULT <- 1` is DESIGN CHOICE, safe (log entry 21). -/
def State.hostRead (r : HostReg) (s : State) : Host.Outcome State Fault Refusal :=
  match s.regs.hostValue r with
  | some _ => .next s
  | none => .fault (.noValue r)

/-- Launch against a reference chip at power-up (R66, R182): every register a draw, the RAM with nothing listed. -/
def State.attachChip (s : State) : State :=
  let blank : Chip :=
    { seconds := 0, minutes := 0, hours := 0, date := 0, month := 0, day := 0, year := 0, writeProtect := 0, ram := [] }
  let t := State.storeAll blank (burstOrder.map fun r => (r, none)) s
  t.2.setChip t.1

end Sys2Proof.Machine
end

