-- ==== Sys2Proof/Machine/Addressing.lean ====
section
/-! DEFINITION. BIT_REV and MAKE_ADDR (R114, R115). They touch no bus and need no INIT (R163). -/

namespace Sys2Proof.Machine

/-- BIT_REV (R114). -/
def execBitRev (b : Byte) (s : State) : Host.Outcome State Fault Refusal :=
  .next (s.setResByte (bitRev b)).complete

/-- MAKE_ADDR (R115): every register id is accepted, RAM and RAM_BURST among them (D29). -/
def execMakeAddr (read : Bool) (reg : RegId) (s : State) : Host.Outcome State Fault Refusal :=
  .next (s.setResByte (s.addr reg read)).complete

end Sys2Proof.Machine
end

