-- ==== Sys2Proof/Machine/Burst.lean ====
section
/-! DEFINITION. GET_CLOCK, GET_CAL_CLOCK and SET_CAL_CLOCK (R140 to R146). -/

namespace Sys2Proof.Machine

/-- The end of GET_CLOCK on its three data bytes `c` (R140): the optional check, then the three fields together. -/
def finishClock (c : List Byte) (s : State) : State :=
  if s.params.decodeCheck && !c.all bcdValid then s.raise .decodeError
  else (s.setResClk (bcdDec (byteAt c 0)) (bcdDec (byteAt c 1)) (bcdDec (byteAt c 2))).complete

/-- GET_CLOCK after its checks (R140). -/
def getClockBody (s : State) : State :=
  let r := s.busTransfer [s.addr .clockBurst true] 3
  match r.1 with
  | none => r.2.raise .transportError
  | some received => finishClock (clockBytes s.params received) r.2

/-- GET_CLOCK (R140). -/
def execGetClock (s : State) : Host.Outcome State Fault Refusal :=
  s.requireReady fun s => .next (getClockBody s)

/-- The end of GET_CAL_CLOCK on its seven reversed bytes `c` (R141): the optional check, then the seven fields
together. -/
def finishCalClock (c : List Byte) (s : State) : State :=
  if s.params.decodeCheck && !(checkedCalBytes s.params c).all bcdValid then s.raise .decodeError
  else
    ((s.setResClk (bcdDec (byteAt c 0)) (bcdDec (byteAt c 1)) (bcdDec (byteAt c 2))).setResCal
      (yearOf (bcdDec (byteAt c 6))) (bcdDec (byteAt c 4)) (bcdDec (byteAt c 3))
      (decodeDay s.params (byteAt c 5))).complete

/-- GET_CAL_CLOCK after its checks (R141). -/
def getCalClockBody (s : State) : State :=
  let r := s.busTransfer [s.addr .clockBurst true] 8
  match r.1 with
  | none => r.2.raise .transportError
  | some received => finishCalClock (calBytes received) r.2

/-- GET_CAL_CLOCK (R141). -/
def execGetCalClock (s : State) : Host.Outcome State Fault Refusal :=
  s.requireReady fun s => .next (getCalClockBody s)

/-- `A0` of R142: the natural constant by default, the address byte with `P_BURST_WRITE_ADDR_REVERSED`. -/
def State.burstWriteAddr (s : State) : Byte :=
  if s.params.burstWriteAddrReversed then s.addr .clockBurst false else s.params.nat.get .clockBurst

/-- The frame F_CAL_WR of R79 and R142, with the state after the draws its out-of-range operands take: the year first,
then the fields in frame order (log entry 12). -/
def State.calFrame (p : Ports) (s : State) : List Byte × State :=
  let y := s.bcdYear p.yearIn
  let sec := y.2.bcdEnc p.secIn.toNat
  let min := sec.2.bcdEnc p.minIn.toNat
  let hour := min.2.bcdEnc p.hourIn.toNat
  let date := hour.2.bcdEnc p.dateIn.toNat
  let month := date.2.bcdEnc p.monthIn.toNat
  let day := month.2.bcdEnc p.dayIn.toNat
  ([s.burstWriteAddr, bitRev sec.1, bitRev min.1, bitRev hour.1, bitRev date.1, bitRev month.1, bitRev day.1,
    bitRev y.1, 0x00], day.2)

/-- Whether the burst-write command byte would reach the attached reference chip as a RAM or RAM_BURST write (R59). No
other command can send one under parameters that meet R75 (`chipCommand_makeAddr`). -/
def State.burstHitsRam (s : State) : Bool :=
  s.chip.isSome && isRamWrite s.params s.burstWriteAddr

/-- SET_CAL_CLOCK after its checks (R142). A run that sends the chip a RAM command is refused (R59, log entry 10). -/
def setCalClockBody (p : Ports) (s : State) : Host.Outcome State Fault Refusal :=
  if s.burstHitsRam then .refused .ramCommand
  else
    let f := s.calFrame p
    .next (State.endWrite (f.2.busWrite f.1))

/-- SET_CAL_CLOCK (R142). -/
def execSetCalClock (p : Ports) (s : State) : Host.Outcome State Fault Refusal :=
  s.requireReady (setCalClockBody p)

end Sys2Proof.Machine
end

