-- ==== Sys2Proof/Machine/Codec.lean ====
section
/-! DEFINITION. BCD_ENC and BCD_DEC (R104, R105). They touch no bus and need no INIT (R163). -/

namespace Sys2Proof.Machine

/-- BCD_ENC (R104). -/
def execBcdEnc (v : Byte) (s : State) : Host.Outcome State Fault Refusal :=
  let e := s.bcdEnc v.toNat
  .next (e.2.setResByte e.1).complete

/-- BCD_DEC (R105), with the optional DecodeError of R165. -/
def execBcdDec (b : Byte) (s : State) : Host.Outcome State Fault Refusal :=
  if s.params.decodeCheck && !bcdValid b then .next (s.raise .decodeError)
  else .next (s.setResByte (bcdDec b)).complete

end Sys2Proof.Machine
end

