-- ==== Sys2Proof/Machine/Init.lean ====
section
/-! DEFINITION. INIT (R120 to R125). -/

namespace Sys2Proof.Machine

/-- Step 3 of INIT (R120, R123): with bit 7 of the byte as received set, write seconds = 0, whatever set the bit
(R125); then READY. -/
def initStep3 (b : Byte) (s : State) : State :=
  if b.getLsbD 7 then
    let w := s.wrSeconds 0
    if w.1 then w.2.becomeReady.complete else w.2.raise .transportError
  else s.becomeReady.complete

/-- Step 2 of INIT (R120): read the raw seconds byte. -/
def initStep2 (s : State) : State :=
  let r := s.rdSecondsRaw
  match r.1 with
  | none => r.2.raise .transportError
  | some b => initStep3 b r.2

/-- The body of INIT from step 1, the write-protect write (R120). A failure undoes nothing and leaves UNINIT (R121). -/
def initBody (s : State) : State :=
  let w := s.busWrite [s.addr .writeProtect false, 0x00]
  if w.1 then initStep2 w.2 else w.2.raise .transportError

/-- INIT (R120): AlreadyInitialised in READY, before any transaction (R164). -/
def execInit (s : State) : Host.Outcome State Fault Refusal :=
  match s.regs.initState with
  | .ready => .next (s.raise .alreadyInitialised)
  | .uninit => .next (initBody s)

end Sys2Proof.Machine
end

