-- ==== Sys2Proof/Machine/SingleRegister.lean ====
section
/-! DEFINITION. GET_SECONDS and SET_SECONDS (R130, R131) over the sub-operations of R132 and R133. -/

namespace Sys2Proof.Machine

/-- GET_SECONDS after its checks (R130): the byte as received, neither reversed nor decoded. -/
def getSecondsBody (s : State) : State :=
  let r := s.rdSecondsRaw
  match r.1 with
  | none => r.2.raise .transportError
  | some b => (r.2.setResByte b).complete

/-- GET_SECONDS (R130). -/
def execGetSeconds (s : State) : Host.Outcome State Fault Refusal :=
  s.requireReady fun s => .next (getSecondsBody s)

/-- SET_SECONDS (R131): no validation; above 99 the data byte is a draw. -/
def execSetSeconds (v : Byte) (s : State) : Host.Outcome State Fault Refusal :=
  s.requireReady fun s => .next (State.endWrite (s.wrSeconds v.toNat))

end Sys2Proof.Machine
end

