-- ==== Sys2Proof/Machine/Dispatch.lean ====
section
/-! DEFINITION. One arm per command of R71; each calls the command's own meaning. -/

namespace Sys2Proof.Machine

def exec (i : Instr) (s : State) : Host.Outcome State Fault Refusal :=
  match i with
  | .bcdEnc v => Sys2Proof.Machine.execBcdEnc v s
  | .bcdDec b => Sys2Proof.Machine.execBcdDec b s
  | .bitRev b => Sys2Proof.Machine.execBitRev b s
  | .makeAddr rd reg => Sys2Proof.Machine.execMakeAddr rd reg s
  | .init => Sys2Proof.Machine.execInit s
  | .getSeconds => Sys2Proof.Machine.execGetSeconds s
  | .setSeconds v => Sys2Proof.Machine.execSetSeconds v s
  | .getClock => Sys2Proof.Machine.execGetClock s
  | .getCalClock => Sys2Proof.Machine.execGetCalClock s
  | .setCalClock p => Sys2Proof.Machine.execSetCalClock p s

end Sys2Proof.Machine
end

