-- ==== Sys2Proof/Machine/Issue.lean ====
section
/-! DEFINITION. Serving one move of the host: a command is decoded and performed (R70, R81, R167), an illegal word takes
IllegalCommand (R162), the reset input resets the block (R180), a host read reads (R24, R29). -/

namespace Sys2Proof.Machine

/-- Perform a command (R167): decode, then the command's meaning, which makes the other checks. -/
def issue (c : Command) (s : State) : Host.Outcome State Fault Refusal :=
  match decode c with
  | .ok i => exec i s
  | .error _ => .next s.illegal

/-- Serve one move of the host. -/
def serve (m : HostMove) (s : State) : Host.Outcome State Fault Refusal :=
  match m with
  | .command c => issue c s
  | .reset => .next s.blockReset
  | .read r => s.hostRead r

/-- The next step of a run whose parameters are well formed: the host's next move, taken from the front of `inputs`;
with none pending the block waits (R180, log entry 4). -/
def serveNext (s : State) : Host.Outcome State Fault Refusal :=
  match s.inputs with
  | [] => .next s
  | m :: rest => serve m { s with inputs := rest }

end Sys2Proof.Machine
end

