-- ==== Sys2Proof/Safety.lean ====
section
/-! DEFINITION. What counts as a safe run, and the vocabulary the statements use: clean and final states (R166, R193),
the frames the block may send (R47, R78), and the invariant of the machine. -/

namespace Sys2Proof

/-- The commands that use the bus (R160, R163), less INIT. -/
def Instr.needsInit : Instr → Bool
  | .bcdEnc _ => false
  | .bcdDec _ => false
  | .bitRev _ => false
  | .makeAddr _ _ => false
  | .init => false
  | .getSeconds => true
  | .setSeconds _ => true
  | .getClock => true
  | .getCalClock => true
  | .setCalClock _ => true

/-- The datapath commands (R163), which touch no bus. -/
def Instr.datapath : Instr → Bool
  | .bcdEnc _ => true
  | .bcdDec _ => true
  | .bitRev _ => true
  | .makeAddr _ _ => true
  | .init => false
  | .getSeconds => false
  | .setSeconds _ => false
  | .getClock => false
  | .getCalClock => false
  | .setCalClock _ => false

/-- The commands that write `RES_BYTE` (R26). -/
def Instr.writesByte : Instr → Bool
  | .bcdEnc _ => true
  | .bcdDec _ => true
  | .bitRev _ => true
  | .makeAddr _ _ => true
  | .init => false
  | .getSeconds => true
  | .setSeconds _ => false
  | .getClock => false
  | .getCalClock => false
  | .setCalClock _ => false

end Sys2Proof

namespace Sys2Proof.Machine

/-- A state is clean when `FAULT = 0` (R193). -/
def State.clean (s : State) : Bool := !s.regs.fault

/-- A state may end a run: no move is pending and no fault was recorded; a faulted state is never final (R166). -/
def State.final (s : State) : Bool := s.inputs.isEmpty && s.clean

/-- The registers of `RES_CLK` (R27). -/
def Regs.clk (r : Regs) : Option Byte × Option Byte × Option Byte :=
  (r.resSec, r.resMin, r.resHour)

/-- The registers of `RES_CAL` (R28). -/
def Regs.cal (r : Regs) : Option Half × Option Byte × Option Byte × Option Byte :=
  (r.resYear, r.resMonth, r.resDate, r.resDay)

/-- The result registers (R26 to R28), which a failed command never writes (R168). -/
def Regs.results (r : Regs) :
    Option Byte × (Option Byte × Option Byte × Option Byte) × Option Half × Option Byte × Option Byte × Option Byte :=
  (r.resByte, r.clk, r.cal)

/-- `d` is the two-digit BCD byte of `v` (R100): tens digit in the high nibble, units digit in the low. -/
def Encodes (v : Nat) (d : Byte) : Prop := d.toNat = 16 * (v / 10) + v % 10

/-- `v` is the decoded value of `b` (R101): ten times the high nibble plus the low. -/
def Decodes (b v : Byte) : Prop := v.toNat = 10 * (b.toNat / 16) + b.toNat % 16

/-- Both nibbles of `b` are decimal digits (R102). -/
def Decimal (b : Byte) : Prop := b.toNat / 16 ≤ 9 ∧ b.toNat % 16 ≤ 9

/-- `a` is `b` with its bits in reverse order (R110). -/
def Reversed (a b : Byte) : Prop := ∀ i < 8, a.getLsbD i = b.getLsbD (7 - i)

/-- `w` is on the wire the data byte of the value `v` (R77): the reversed BCD byte. -/
def OnWire (v : Nat) (w : Byte) : Prop := ∃ d, Encodes v d ∧ Reversed w d

/-- What a command that made `n` transport calls leaves alone besides the block's registers: the parameters, the host's
moves to come, the chip's RAM, and the outcomes of later calls. -/
def State.Ran (n : Nat) (s t : State) : Prop :=
  t.params = s.params ∧ t.inputs = s.inputs ∧ t.chip.map Chip.ram = s.chip.map Chip.ram ∧
    ∀ k, t.draws.okAt k = s.draws.okAt (k + n)

/-- No time passes on the chip `c` before the next call (R64): its clock is halted, or ticks are frozen. -/
def State.still (s : State) (c : Chip) : Bool := c.halted || decide (s.params.chipTicks = .frozen)

/-- `f` is a frame of SET_CAL_CLOCK (R79, R142): the command byte as `P_BURST_WRITE_ADDR_REVERSED` says, seven data bytes,
each on the wire its field when that is in 0..99 (the year less 2000 when in 2000..2099) and some byte when it is not, and the
trailing 0x00. -/
def IsCalFrame (q : Params) (p : Ports) (f : List Byte) : Prop :=
  ∃ a0 se mi ho da mo dw y : Byte, f = [a0, se, mi, ho, da, mo, dw, y, 0x00] ∧
    (q.burstWriteAddrReversed = false → a0 = q.nat.get .clockBurst) ∧
    (q.burstWriteAddrReversed = true → Reversed a0 (q.nat.get .clockBurst)) ∧
    (p.secIn.toNat ≤ 99 → OnWire p.secIn.toNat se) ∧ (p.minIn.toNat ≤ 99 → OnWire p.minIn.toNat mi) ∧
    (p.hourIn.toNat ≤ 99 → OnWire p.hourIn.toNat ho) ∧ (p.dateIn.toNat ≤ 99 → OnWire p.dateIn.toNat da) ∧
    (p.monthIn.toNat ≤ 99 → OnWire p.monthIn.toNat mo) ∧ (p.dayIn.toNat ≤ 99 → OnWire p.dayIn.toNat dw) ∧
    (2000 ≤ p.yearIn.toNat → p.yearIn.toNat ≤ 2099 → OnWire (p.yearIn.toNat - 2000) y)

/-- The host reads `n` from the register `r`, and the read changes nothing but the queue (R24). -/
def State.ReadsAs (s : State) (r : HostReg) (n : Nat) : Prop :=
  (∃ v : Half, s.regs.hostValue r = some v ∧ v.toNat = n) ∧
    ∀ rest, step { s with inputs := .read r :: rest } = .next { s with inputs := rest }

/-- The host finds no value in the register `r`, and its read is a fault (R29). -/
def State.ReadFaults (s : State) (r : HostReg) : Prop :=
  s.regs.hostValue r = none ∧ ∀ rest, step { s with inputs := .read r :: rest } = .fault (.noValue r)

/-- The register `r`, which holds `o`, is read by the host: no value is a fault, and a value is read as it is (R29). -/
def State.ReadsRegister {w : Nat} (s : State) (r : HostReg) (o : Option (BitVec w)) : Prop :=
  (o = none → s.ReadFaults r) ∧ ∀ v, o = some v → s.ReadsAs r v.toNat

/-- SET_CAL_CLOCK's command byte is a write of the RAM to the attached chip (R59): a chip is attached, the byte goes out
unreversed, and its reversal is the natural constant of RAM or RAM_BURST. -/
def State.CalFrameHitsRam (s : State) : Prop :=
  s.chip.isSome ∧ s.params.burstWriteAddrReversed = false ∧
    (bitRev (s.params.nat.get .clockBurst) = s.params.nat.get .ram ∨
      bitRev (s.params.nat.get .clockBurst) = s.params.nat.get .ramBurst)

/-- Every field of a SET_CAL_CLOCK command is in the source's range (R27, R28, R145). -/
def inCalendar (p : Ports) : Prop :=
  2000 ≤ p.yearIn.toNat ∧ p.yearIn.toNat ≤ 2099 ∧ 1 ≤ p.monthIn.toNat ∧ p.monthIn.toNat ≤ 12 ∧
  1 ≤ p.dateIn.toNat ∧ p.dateIn.toNat ≤ 31 ∧ 1 ≤ p.dayIn.toNat ∧ p.dayIn.toNat ≤ 7 ∧
  p.hourIn.toNat ≤ 23 ∧ p.minIn.toNat ≤ 59 ∧ p.secIn.toNat ≤ 59

/-- The write of a frame with the given outcome, as an event (R45). -/
def writeEvent (frame : List Byte) (ok : Bool) : Event :=
  { kind := .write, out := frame, n := 0, result := if ok then .ok else .err }

/-- A transfer that received the given bytes, as an event (R45). -/
def readEvent (out bytes : List Byte) : Event :=
  { kind := .transfer, out := out, n := bytes.length, result := .okIn bytes }

/-- A transfer of `n` bytes that failed, as an event (R45). -/
def failedRead (out : List Byte) (n : Nat) : Event :=
  { kind := .transfer, out := out, n := n, result := .err }

/-- The result of a write event: no byte received. -/
def CallResult.isWriteResult : CallResult → Bool
  | .ok => true
  | .okIn _ => false
  | .err => true

/-- The result of a transfer event of `n` bytes: exactly `n` on success (R42). -/
def CallResult.isTransferResult (n : Nat) : CallResult → Bool
  | .ok => false
  | .okIn bytes => bytes.length == n
  | .err => true

/-- The event is one of the transport calls of R47 and R78, and no other: a WRITE_PROTECT clear, a read or a write of
SECONDS, a CLOCK_BURST read of 3 or 8 bytes, or a nine-byte CLOCK_BURST write that ends in 0x00. -/
def Event.allowed (p : Params) (e : Event) : Prop :=
  (e.kind = .write ∧ e.n = 0 ∧ e.result.isWriteResult ∧
    (e.out = [makeAddr p.nat .writeProtect false, 0x00] ∨
     (∃ d, e.out = [makeAddr p.nat .seconds false, d]) ∨
     (∃ d : List Byte, d.length = 7 ∧
       e.out = (if p.burstWriteAddrReversed then makeAddr p.nat .clockBurst false else p.nat.clockBurst)
         :: (d ++ [0x00])))) ∨
  (e.kind = .transfer ∧ e.result.isTransferResult e.n ∧
    ((e.out = [makeAddr p.nat .seconds true] ∧ e.n = 1) ∨
     (e.out = [makeAddr p.nat .clockBurst true] ∧ (e.n = 3 ∨ e.n = 8))))

/-- A result register holds a value at most `n`, or none. -/
def atMost {w : Nat} (n : Nat) (r : Option (BitVec w)) : Bool :=
  r.all fun v => decide (v.toNat ≤ n)

/-- The chip's RAM lists each address once, in rising order and inside `P_RAM_SIZE` (R57). -/
def Chip.ramWf (p : Params) (c : Chip) : Bool :=
  Memory.wf c.ram && c.ram.all fun cell => decide (cell.1 < p.ramSize)

/-- The last error and the sticky fault agree (R23, R160): a fault code in `ERR` means `FAULT = 1`; and the two
contract faults say which state the machine is in (R163, R164), since no error moves `INIT_STATE` (R169). -/
def Regs.errInv (r : Regs) : Prop :=
  (r.err.isFault → r.fault = true) ∧
  (r.err = .notInitialised → r.initState = .uninit) ∧
  (r.err = .alreadyInitialised → r.initState = .ready)

/-- The clock fields hold values together or none, at most 165 (R27, R101); the calendar fields together (R28), at most
165 but for the year, 2000 to 2165, and the day when it is read as a plain integer; and a calendar is never held without
a clock (R141). -/
def Regs.resInv (p : Params) (r : Regs) : Prop :=
  r.resSec.isSome = r.resMin.isSome ∧ r.resMin.isSome = r.resHour.isSome ∧
  atMost 165 r.resSec ∧ atMost 165 r.resMin ∧ atMost 165 r.resHour ∧
  r.resYear.isSome = r.resMonth.isSome ∧ r.resMonth.isSome = r.resDate.isSome ∧
  r.resDate.isSome = r.resDay.isSome ∧
  atMost 2165 r.resYear ∧ (∀ y, r.resYear = some y → 2000 ≤ y.toNat) ∧
  atMost 165 r.resMonth ∧ atMost 165 r.resDate ∧ (p.dayDecode = .bcd → atMost 165 r.resDay) ∧
  (r.resYear.isSome → r.resSec.isSome)

/-- The invariant of the machine: the registers as above, every event of the history one the block may issue (R47), and
the RAM of an attached chip in canonical form (R57). -/
def State.Inv (s : State) : Prop :=
  s.regs.errInv ∧ s.regs.resInv s.params ∧ (∀ e ∈ s.history, e.allowed s.params) ∧
  (∀ c, s.chip = some c → c.ramWf s.params)

end Sys2Proof.Machine
end

