-- ==== Sys2Proof/Certificates/Slice0/Obligations.lean ====
section
/-! DEFINITION. The statements about the machine, one definition each; OBLIGATIONS.json gives their rules. Every
statement is over all states, and so over every draw, every parameter set and every chip, unless it says otherwise. -/

section
open Sys2Proof Sys2Proof.Machine

/-! ### Encodings (R70 to R84) -/

/-- Decoding the command that issues an instruction gives the instruction back, with every operand. -/
def Obligations.DecodeInvertsEncode : Prop :=
  ∀ i : Instr, decode (encode i) = .ok i

/-- A word that decodes has one meaning: encoding what was read gives the word back, and for SET_CAL_CLOCK, the one
command that reads them, the ports. -/
def Obligations.EncodeInvertsDecode : Prop :=
  ∀ (c : Command) (i : Instr), decode c = .ok i →
    (encode i).cmd = c.cmd ∧ ∀ p, i = .setCalClock p → (encode i).ports = c.ports

/-- The decoder accepts exactly the words that no point of R73 calls illegal. -/
def Obligations.DecodesExactlyLegalWords : Prop :=
  ∀ c : Command, (∃ i, decode c = .ok i) ↔ c.cmd.legal = true

/-- Words written out from the encodings of 95_test_vectors.md decode to their commands, and the words of its section
2.6 to none. That the table word of SET_CAL_CLOCK is issued with every port 0 is the model's choice (log entry 5). -/
def Obligations.SpecWordsDecode : Prop :=
  decodeTableWord 16 0x102D = some (.bcdEnc 45) ∧
  decodeTableWord 16 0x2059 = some (.bcdDec 0x59) ∧
  decodeTableWord 16 0x3045 = some (.bitRev 0x45) ∧
  decodeTableWord 16 0x4108 = some (.makeAddr true .clockBurst) ∧
  decodeTableWord 16 0x400A = some (.makeAddr false .ramBurst) ∧
  decodeTableWord 16 0x5000 = some .init ∧
  decodeTableWord 16 0x6000 = some .getSeconds ∧
  decodeTableWord 16 0x703B = some (.setSeconds 59) ∧
  decodeTableWord 16 0x8000 = some .getClock ∧
  decodeTableWord 16 0x9000 = some .getCalClock ∧
  decodeTableWord 16 0xA000 = some (.setCalClock Ports.zero) ∧
  ∀ w ∈ [0x0000, 0x0FFF, 0xB000, 0xC123, 0xFFFF, 0x5001, 0x8800, 0xA001, 0x1F00, 0x7100, 0x4011, 0x400C],
    decodeTableWord 16 w = none

/-! ### Steps, reset and the host's reads -/

/-- A step whose next move is a command that decodes to `i` is `i` performed with the move taken from the queue
(the queue of host moves is the model's form, log entry 4). -/
def Obligations.StepRunsCommand : Prop :=
  ∀ (s : State) (c : Command) (rest : List HostMove) (i : Instr),
    s.params.wf → s.inputs = .command c :: rest → decode c = .ok i →
      step s = exec i { s with inputs := rest }

/-- R73, R162: an illegal word makes no transaction, writes no result register and leaves `INIT_STATE`; it sets `ERR`
and `FAULT`. -/
def Obligations.IllegalWordFaults : Prop :=
  ∀ (c : Command) (s : State), c.cmd.legal = false →
    issue c s = .next { s with regs := { s.regs with err := .illegalCommand, fault := true } }

/-- R180, R181: the reset input gives every block register its reset value, makes no transaction and leaves the chip
alone. That the history and the draws run on is the model's choice (log entry 13). -/
def Obligations.ResetInputResetsBlock : Prop :=
  ∀ (s : State) (rest : List HostMove), s.params.wf → s.inputs = .reset :: rest →
    step s = .next { s with inputs := rest, regs :=
      { initState := .uninit, fault := false, err := .ok, resByte := none, resSec := none, resMin := none,
        resHour := none, resYear := none, resMonth := none, resDate := none, resDay := none } }

/-- R31: the reset values of the block, and `STATUS` reads as 0. That "no value" is held as `none` is the model's form
(log entry 6). -/
def Obligations.ResetValues : Prop :=
  State.reset.regs.initState = .uninit ∧ State.reset.regs.fault = false ∧ State.reset.regs.err = .ok ∧
  State.reset.regs.results = (none, (none, none, none), none, none, none, none) ∧ State.reset.regs.status = 0x00

/-- R22, R23, R180: a step clears `FAULT`, or takes `INIT_STATE` back to UNINIT, only when the move is a reset. -/
def Obligations.OnlyResetClears : Prop :=
  ∀ s t : State, step s = .next t →
    (s.regs.fault = true ∧ t.regs.fault = false) ∨ (s.regs.initState = .ready ∧ t.regs.initState = .uninit) →
      ∃ rest, s.inputs = .reset :: rest

/-- With no move pending the machine waits (the model's reading of R180's "it waits for its first command", log
entry 4). -/
def Obligations.WaitsForMove : Prop :=
  ∀ s : State, s.params.wf → s.inputs = [] → step s = .next s

/-- R75: the read flag is 0x01, and a run is refused exactly when its `NAT` breaks (a), (b) or (c). -/
def Obligations.IllFormedNatRefused : Prop :=
  readFlag = 0x01 ∧
  ∀ s : State, step s = .refused .badParameters ↔
    (s.params.nat.get .seconds ≠ 0x80 ∨ (∃ r, (s.params.nat.get r).getLsbD 0 = true) ∨
      ∃ a b, a ≠ b ∧ s.params.nat.get a = s.params.nat.get b)

/-- R24, R29: the host reads `STATUS` always, and each result register as the value it holds; where a result register holds
no value the read is a fault that names it. A read changes nothing but the queue. That "no value" is `none`, and a read a move
of its own, is the model's form (log entries 6 and 7); that the fault stops the run and writes no `FAULT` is its choice (log
entry 21). -/
def Obligations.HostReadOfNoValueFaults : Prop :=
  ∀ s : State, s.params.wf →
    s.ReadsAs .status s.regs.status.toNat ∧
    s.ReadsRegister .resByte s.regs.resByte ∧ s.ReadsRegister .resSec s.regs.resSec ∧
    s.ReadsRegister .resMin s.regs.resMin ∧ s.ReadsRegister .resHour s.regs.resHour ∧
    s.ReadsRegister .resYear s.regs.resYear ∧ s.ReadsRegister .resMonth s.regs.resMonth ∧
    s.ReadsRegister .resDate s.regs.resDate ∧ s.ReadsRegister .resDay s.regs.resDay

/-- R24, R25, R160: the fields of `STATUS`, its reserved bits zero, and the six codes of `ERR`. -/
def Obligations.StatusLayout : Prop :=
  (∀ r : Regs, r.status.extractLsb' 0 3 = r.err.code ∧ r.status.getLsbD 3 = r.fault ∧
    r.status.getLsbD 4 = decide (r.initState = .ready) ∧ r.status.extractLsb' 5 3 = 0) ∧
  ErrCode.ok.code = 0 ∧ ErrCode.transportError.code = 1 ∧ ErrCode.illegalCommand.code = 2 ∧
  ErrCode.notInitialised.code = 3 ∧ ErrCode.alreadyInitialised.code = 4 ∧ ErrCode.decodeError.code = 5

/-! ### BCD codec (R100 to R105) -/

/-- R104, R100: BCD_ENC writes the packed byte for 0..99 and some byte above, with `ERR = OK`; nothing else changes but,
above, the draws to come. -/
def Obligations.BcdEncWritesPackedByte : Prop :=
  ∀ (v : Byte) (s : State),
    (v.toNat ≤ 99 → ∃ d, Encodes v.toNat d ∧
      exec (.bcdEnc v) s = .next { s with regs := { s.regs with resByte := some d, err := .ok } }) ∧
    (99 < v.toNat → ∃ (d : Byte) (e : Draws),
      exec (.bcdEnc v) s = .next { s with regs := { s.regs with resByte := some d, err := .ok }, draws := e })

/-- R105: BCD_DEC writes ten times the high nibble plus the low for every byte, unless the optional check is on and a
nibble is above 9: then DecodeError, with `RES_BYTE` unchanged. -/
def Obligations.BcdDecWritesDecodedValue : Prop :=
  ∀ (b : Byte) (s : State),
    (s.params.decodeCheck = false ∨ Decimal b → ∃ v, Decodes b v ∧
      exec (.bcdDec b) s = .next { s with regs := { s.regs with resByte := some v, err := .ok } }) ∧
    (s.params.decodeCheck = true → ¬ Decimal b →
      exec (.bcdDec b) s = .next { s with regs := { s.regs with err := .decodeError, fault := true } })

/-- R103: (a) BCD_ENC then BCD_DEC gives 0..99 back; (b) BCD_DEC then BCD_ENC gives a valid byte back; (c) the decoder
is not injective. -/
def Obligations.CodecRoundTrips : Prop :=
  (∀ (v : Byte) (s : State), v.toNat ≤ 99 → ∃ d t u, exec (.bcdEnc v) s = .next t ∧ t.regs.resByte = some d ∧
    exec (.bcdDec d) t = .next u ∧ u.regs.resByte = some v) ∧
  (∀ (b : Byte) (s : State), Decimal b → ∃ v t u, exec (.bcdDec b) s = .next t ∧ t.regs.resByte = some v ∧
    exec (.bcdEnc v) t = .next u ∧ u.regs.resByte = some b) ∧
  (bcdDec 0x0A = 10 ∧ bcdDec 0x10 = 10 ∧ bcdDec 0x1F = 25 ∧ bcdDec 0x25 = 25)

/-! ### Bit reversal and addresses (R110 to R115) -/

/-- R114, R110: BIT_REV writes the operand with bit i moved to bit 7 - i, and changes nothing else but `ERR`. -/
def Obligations.BitRevReversesBits : Prop :=
  ∀ (b : Byte) (s : State), ∃ r, Reversed r b ∧
    exec (.bitRev b) s = .next { s with regs := { s.regs with resByte := some r, err := .ok } }

/-- R111: the laws of bit reversal, (a) to (e). -/
def Obligations.BitRevLaws : Prop :=
  (∀ b, bitRev (bitRev b) = b) ∧ Function.Bijective bitRev ∧
  (∀ a b, bitRev (a ||| b) = bitRev a ||| bitRev b ∧ bitRev (a &&& b) = bitRev a &&& bitRev b ∧
    bitRev (~~~a) = ~~~(bitRev a)) ∧
  (∀ b, (List.range 8).countP (bitRev b).getLsbD = (List.range 8).countP b.getLsbD) ∧
  (∀ b, bitRev b = b ↔ b ∈ [0x00, 0x18, 0x24, 0x3C, 0x42, 0x5A, 0x66, 0x7E, 0x81, 0x99, 0xA5, 0xBD, 0xC3, 0xDB,
    0xE7, 0xFF]) ∧
  (∀ v d, v ≤ 99 → Encodes v d → (bitRev d = d ↔ v ∈ [0, 18, 24, 42, 66, 81, 99]))

/-- R115, R76: MAKE_ADDR writes the wire address byte, the direction in bit 7 and natural bit i + 1 in bit 6 - i, for
every register id; nothing else changes but `ERR`. -/
def Obligations.MakeAddrBuildsWireByte : Prop :=
  ∀ (rd : Bool) (r : RegId) (s : State), s.params.wf → ∃ w : Byte,
    w.getLsbD 7 = rd ∧ (∀ i < 7, w.getLsbD (6 - i) = (s.params.nat.get r).getLsbD (i + 1)) ∧
    exec (.makeAddr rd r) s = .next { s with regs := { s.regs with resByte := some w, err := .ok } }

/-- R113: the two address bytes the source fixes. -/
def Obligations.SecondsAddressBytes : Prop :=
  ∀ s : State, s.params.wf →
    exec (.makeAddr true .seconds) s = .next { s with regs := { s.regs with resByte := some 0x81, err := .ok } } ∧
    exec (.makeAddr false .seconds) s = .next { s with regs := { s.regs with resByte := some 0x01, err := .ok } }

/-- R112: the source's two descriptions of an address byte agree. -/
def Obligations.AddressDescriptionsAgree : Prop :=
  ∀ (p : Params) (r : RegId) (rd : Bool), p.wf →
    makeAddr p.nat r rd = bitRev (p.nat.get r ||| if rd then readFlag else 0) ∧
    makeAddr p.nat r rd = bitRev (p.nat.get r) ||| (if rd then 0x80 else 0) ∧
    makeAddr p.nat r true = makeAddr p.nat r false ||| 0x80

/-- R163: the datapath commands complete in either `INIT_STATE`, make no transaction and touch no chip. -/
def Obligations.DatapathTouchesNoBus : Prop :=
  ∀ (i : Instr) (s : State), i.datapath = true → ∃ t, exec i s = .next t ∧ t.history = s.history ∧
    t.chip = s.chip ∧ t.regs.initState = s.regs.initState ∧ t.regs.clk = s.regs.clk ∧ t.regs.cal = s.regs.cal ∧
    s.Ran 0 t

/-! ### INIT (R120 to R125) -/

/-- R120, R124: INIT in UNINIT, its calls answered `ok`, writes write-protect 0, reads the raw seconds byte `b`, writes
seconds 0 exactly when bit 7 of `b` as received is set, and becomes READY; no result register is written. -/
def Obligations.InitClearsAndBecomesReady : Prop :=
  ∀ s : State, s.params.wf → s.regs.initState = .uninit →
    s.draws.okAt 0 = true → s.draws.okAt 1 = true → s.draws.okAt 2 = true →
    ∃ (b : Byte) (t : State), exec .init s = .next t ∧
      t.history = s.history ++ [writeEvent [makeAddr s.params.nat .writeProtect false, 0x00] true, readEvent [0x81] [b]]
        ++ (if b.getLsbD 7 then [writeEvent [0x01, 0x00] true] else []) ∧
      t.regs = { s.regs with initState := .ready, err := .ok } ∧ s.Ran (if b.getLsbD 7 then 3 else 2) t

/-- R121: INIT whose first, second or third call fails ends there with TransportError: the calls made stay made, no
further one is issued, and `INIT_STATE`, `FAULT` and the results keep their values. -/
def Obligations.InitFailureStopsThere : Prop :=
  ∀ s : State, s.params.wf → s.regs.initState = .uninit →
    (s.draws.okAt 0 = false → ∃ t, exec .init s = .next t ∧ s.Ran 1 t ∧
      t.regs = { s.regs with err := .transportError } ∧
      t.history = s.history ++ [writeEvent [makeAddr s.params.nat .writeProtect false, 0x00] false]) ∧
    (s.draws.okAt 0 = true → s.draws.okAt 1 = false → ∃ t, exec .init s = .next t ∧ s.Ran 2 t ∧
      t.regs = { s.regs with err := .transportError } ∧
      t.history = s.history ++
        [writeEvent [makeAddr s.params.nat .writeProtect false, 0x00] true, failedRead [0x81] 1]) ∧
    (s.draws.okAt 0 = true → s.draws.okAt 1 = true → s.draws.okAt 2 = false → ∃ (b : Byte) (t : State),
      exec .init s = .next t ∧
      (b.getLsbD 7 = true → s.Ran 3 t ∧ t.regs = { s.regs with err := .transportError } ∧
        t.history = s.history ++ [writeEvent [makeAddr s.params.nat .writeProtect false, 0x00] true,
          readEvent [0x81] [b], writeEvent [0x01, 0x00] false]) ∧
      (b.getLsbD 7 = false → s.Ran 2 t ∧ t.regs = { s.regs with initState := .ready, err := .ok } ∧
        t.history = s.history ++ [writeEvent [makeAddr s.params.nat .writeProtect false, 0x00] true,
          readEvent [0x81] [b]]))

/-- R164: INIT in READY is AlreadyInitialised with no transaction; INIT in UNINIT is not, and one that fails leaves
UNINIT. -/
def Obligations.SecondInitFaults : Prop :=
  (∀ s : State, s.regs.initState = .ready →
    exec .init s = .next { s with regs := { s.regs with err := .alreadyInitialised, fault := true } }) ∧
  (∀ s t : State, s.regs.initState = .uninit → exec .init s = .next t →
    t.regs.err ≠ .alreadyInitialised ∧ (t.regs.err ≠ .ok → t.regs.initState = .uninit))

/-- R22: a command that moves `INIT_STATE` is INIT, from UNINIT to READY, with `ERR = OK` and every call it made
answered `ok`. -/
def Obligations.OnlyInitMovesInitState : Prop :=
  ∀ (i : Instr) (s t : State), exec i s = .next t → t.regs.initState ≠ s.regs.initState →
    i = .init ∧ s.regs.initState = .uninit ∧ t.regs.initState = .ready ∧ t.regs.err = .ok ∧
    ∃ es, t.history = s.history ++ es ∧ ∀ e ∈ es, e.result ≠ .err

/-- R122: the rows of the table of `INIT_STATE`, one clause each. -/
def Obligations.InitStateMachine : Prop :=
  (∀ s t : State, s.regs.initState = .uninit → exec .init s = .next t → ∃ es, t.history = s.history ++ es ∧
    t.regs.fault = s.regs.fault ∧
    ((∀ e ∈ es, e.result ≠ .err) → t.regs.initState = .ready ∧ t.regs.err = .ok) ∧
    ((∃ e ∈ es, e.result = .err) → t.regs.initState = .uninit ∧ t.regs.err = .transportError)) ∧
  (∀ (i : Instr) (s : State), i.needsInit = true → s.regs.initState = .uninit → ∃ t, exec i s = .next t ∧
    t.history = s.history ∧ t.regs.initState = .uninit ∧ t.regs.err = .notInitialised ∧ t.regs.fault = true) ∧
  (∀ (i : Instr) (s : State), i.datapath = true → s.regs.initState = .uninit → ∃ t, exec i s = .next t ∧
    t.history = s.history ∧ t.regs.initState = .uninit) ∧
  (∀ s : State, s.regs.initState = .ready → ∃ t, exec .init s = .next t ∧
    t.history = s.history ∧ t.regs.initState = .ready ∧ t.regs.err = .alreadyInitialised ∧ t.regs.fault = true) ∧
  (∀ (i : Instr) (s t : State), s.regs.initState = .ready → exec i s = .next t → t.regs.initState = .ready) ∧
  (∀ (s : State) (c : Command) (rest : List HostMove), s.params.wf → s.inputs = .command c :: rest →
    c.cmd.legal = false → ∃ t, step s = .next t ∧ t.history = s.history ∧
      t.regs.initState = s.regs.initState ∧ t.regs.err = .illegalCommand ∧ t.regs.fault = true) ∧
  (∀ (s : State) (rest : List HostMove), s.params.wf → s.inputs = .reset :: rest → ∃ t, step s = .next t ∧
    t.regs.initState = .uninit ∧ t.regs.err = .ok ∧ t.regs.fault = false)

/-! ### Single-register framing (R130 to R133) -/

/-- R130: GET_SECONDS in READY, its call answered `ok`, makes the one SECONDS read and puts the received byte, unchanged,
in `RES_BYTE`. -/
def Obligations.GetSecondsReturnsRawByte : Prop :=
  ∀ s : State, s.params.wf → s.regs.initState = .ready → s.draws.okAt 0 = true →
    ∃ (b : Byte) (t : State), exec .getSeconds s = .next t ∧ t.history = s.history ++ [readEvent [0x81] [b]] ∧
      t.regs = { s.regs with resByte := some b, err := .ok } ∧ s.Ran 1 t

/-- R131, R133: SET_SECONDS in READY, its call answered `ok`, writes the SECONDS address and one data byte: the reversed
BCD byte of 0..99 and some byte above, with no error. -/
def Obligations.SetSecondsWritesFrame : Prop :=
  ∀ (v : Byte) (s : State), s.params.wf → s.regs.initState = .ready → s.draws.okAt 0 = true →
    ∃ (d : Byte) (t : State), exec (.setSeconds v) s = .next t ∧ (v.toNat ≤ 99 → OnWire v.toNat d) ∧
      t.history = s.history ++ [writeEvent [0x01, d] true] ∧ t.regs = { s.regs with err := .ok } ∧ s.Ran 1 t

/-- R163: a bus command in UNINIT is NotInitialised with no transaction and nothing else changed. -/
def Obligations.BusCommandBeforeInitFaults : Prop :=
  ∀ (i : Instr) (s : State), i.needsInit = true → s.regs.initState = .uninit →
    exec i s = .next { s with regs := { s.regs with err := .notInitialised, fault := true } }

/-- R161: a bus command whose call fails ends there with TransportError: it made its one call, of the frame the command
always sends, and no other; `FAULT`, `INIT_STATE` and every result register keep their values. Of the five only SET_CAL_CLOCK
can be refused instead, where its command byte is a RAM write (log entry 10). -/
def Obligations.TransportErrorSurfaces : Prop :=
  ∀ s : State, s.regs.initState = .ready → s.draws.okAt 0 = false →
    (∃ t, exec .getSeconds s = .next t ∧ s.Ran 1 t ∧ t.regs = { s.regs with err := .transportError } ∧
      t.history = s.history ++ [failedRead [makeAddr s.params.nat .seconds true] 1]) ∧
    (∀ v : Byte, ∃ (d : Byte) (t : State), exec (.setSeconds v) s = .next t ∧ s.Ran 1 t ∧
      t.regs = { s.regs with err := .transportError } ∧ (v.toNat ≤ 99 → OnWire v.toNat d) ∧
      t.history = s.history ++ [writeEvent [makeAddr s.params.nat .seconds false, d] false]) ∧
    (∃ t, exec .getClock s = .next t ∧ s.Ran 1 t ∧ t.regs = { s.regs with err := .transportError } ∧
      t.history = s.history ++ [failedRead [makeAddr s.params.nat .clockBurst true] 3]) ∧
    (∃ t, exec .getCalClock s = .next t ∧ s.Ran 1 t ∧ t.regs = { s.regs with err := .transportError } ∧
      t.history = s.history ++ [failedRead [makeAddr s.params.nat .clockBurst true] 8]) ∧
    (∀ p : Ports, s.burstHitsRam = false → ∃ (f : List Byte) (t : State), exec (.setCalClock p) s = .next t ∧
      s.Ran 1 t ∧ t.regs = { s.regs with err := .transportError } ∧ IsCalFrame s.params p f ∧
      t.history = s.history ++ [writeEvent f false])

/-! ### Burst framing (R140 to R146) -/

/-- R140: GET_CLOCK in READY, its call answered `ok`, without the optional check: one CLOCK_BURST read of three bytes,
decoded as they are (reversed first only with `P_CLOCK_READ_REVERSED`) into `RES_CLK`; `RES_CAL` is not touched. -/
def Obligations.GetClockDecodesThreeBytes : Prop :=
  ∀ s : State, s.regs.initState = .ready → s.draws.okAt 0 = true → s.params.decodeCheck = false →
    ∃ (r0 r1 r2 c0 c1 c2 sec min hour : Byte) (t : State), exec .getClock s = .next t ∧
      t.history = s.history ++ [readEvent [makeAddr s.params.nat .clockBurst true] [r0, r1, r2]] ∧
      (s.params.clockReadReversed = false → c0 = r0 ∧ c1 = r1 ∧ c2 = r2) ∧
      (s.params.clockReadReversed = true → Reversed c0 r0 ∧ Reversed c1 r1 ∧ Reversed c2 r2) ∧
      Decodes c0 sec ∧ Decodes c1 min ∧ Decodes c2 hour ∧
      t.regs = { s.regs with resSec := some sec, resMin := some min, resHour := some hour, err := .ok } ∧ s.Ran 1 t

/-- R141: GET_CAL_CLOCK in READY, its call answered `ok`, without the optional check: one CLOCK_BURST read of eight
bytes, the first seven reversed and decoded in burst order, the eighth discarded, the year 2000 + its value. -/
def Obligations.GetCalClockDecodesSevenBytes : Prop :=
  ∀ s : State, s.regs.initState = .ready → s.draws.okAt 0 = true → s.params.decodeCheck = false →
    ∃ (r0 r1 r2 r3 r4 r5 r6 r7 c0 c1 c2 c3 c4 c5 c6 sec min hour date month day yy : Byte) (year : Half) (t : State),
      exec .getCalClock s = .next t ∧
      t.history = s.history ++
        [readEvent [makeAddr s.params.nat .clockBurst true] [r0, r1, r2, r3, r4, r5, r6, r7]] ∧
      Reversed c0 r0 ∧ Reversed c1 r1 ∧ Reversed c2 r2 ∧ Reversed c3 r3 ∧ Reversed c4 r4 ∧ Reversed c5 r5 ∧
      Reversed c6 r6 ∧ Decodes c0 sec ∧ Decodes c1 min ∧ Decodes c2 hour ∧ Decodes c3 date ∧ Decodes c4 month ∧
      (s.params.dayDecode = .bcd → Decodes c5 day) ∧ (s.params.dayDecode = .plain → day = c5) ∧
      Decodes c6 yy ∧ year.toNat = 2000 + yy.toNat ∧
      t.regs = { s.regs with
        resSec := some sec, resMin := some min, resHour := some hour, resYear := some year, resMonth := some month,
        resDate := some date, resDay := some day, err := .ok } ∧ s.Ran 1 t

/-- R165, R140, R141: with the optional check on, GET_CLOCK and GET_CAL_CLOCK whose transfer succeeded write the decoded
values when every checked byte is decimal, and otherwise end in DecodeError with no result written. The day byte is checked
only when it is read as BCD. -/
def Obligations.DecodeCheckGuardsReads : Prop :=
  ∀ s : State, s.regs.initState = .ready → s.draws.okAt 0 = true → s.params.decodeCheck = true →
    (∃ (r0 r1 r2 c0 c1 c2 : Byte) (t : State), exec .getClock s = .next t ∧ s.Ran 1 t ∧
      t.history = s.history ++ [readEvent [makeAddr s.params.nat .clockBurst true] [r0, r1, r2]] ∧
      (s.params.clockReadReversed = false → c0 = r0 ∧ c1 = r1 ∧ c2 = r2) ∧
      (s.params.clockReadReversed = true → Reversed c0 r0 ∧ Reversed c1 r1 ∧ Reversed c2 r2) ∧
      (Decimal c0 ∧ Decimal c1 ∧ Decimal c2 → ∃ sec min hour : Byte,
        Decodes c0 sec ∧ Decodes c1 min ∧ Decodes c2 hour ∧
        t.regs = { s.regs with resSec := some sec, resMin := some min, resHour := some hour, err := .ok }) ∧
      (¬ (Decimal c0 ∧ Decimal c1 ∧ Decimal c2) → t.regs = { s.regs with err := .decodeError, fault := true })) ∧
    (∃ (r0 r1 r2 r3 r4 r5 r6 r7 c0 c1 c2 c3 c4 c5 c6 : Byte) (t : State), exec .getCalClock s = .next t ∧ s.Ran 1 t ∧
      t.history = s.history ++
        [readEvent [makeAddr s.params.nat .clockBurst true] [r0, r1, r2, r3, r4, r5, r6, r7]] ∧
      Reversed c0 r0 ∧ Reversed c1 r1 ∧ Reversed c2 r2 ∧ Reversed c3 r3 ∧ Reversed c4 r4 ∧ Reversed c5 r5 ∧
      Reversed c6 r6 ∧
      (Decimal c0 ∧ Decimal c1 ∧ Decimal c2 ∧ Decimal c3 ∧ Decimal c4 ∧ (s.params.dayDecode = .bcd → Decimal c5) ∧
          Decimal c6 → ∃ (sec min hour date month day yy : Byte) (year : Half),
        Decodes c0 sec ∧ Decodes c1 min ∧ Decodes c2 hour ∧ Decodes c3 date ∧ Decodes c4 month ∧
        (s.params.dayDecode = .bcd → Decodes c5 day) ∧ (s.params.dayDecode = .plain → day = c5) ∧
        Decodes c6 yy ∧ year.toNat = 2000 + yy.toNat ∧
        t.regs = { s.regs with
          resSec := some sec, resMin := some min, resHour := some hour, resYear := some year, resMonth := some month,
          resDate := some date, resDay := some day, err := .ok }) ∧
      (¬ (Decimal c0 ∧ Decimal c1 ∧ Decimal c2 ∧ Decimal c3 ∧ Decimal c4 ∧ (s.params.dayDecode = .bcd → Decimal c5) ∧
          Decimal c6) → t.regs = { s.regs with err := .decodeError, fault := true }))

/-- R142, R143, R79: SET_CAL_CLOCK in READY makes one call, the write of its nine-byte frame, whether the call is answered
`ok` or `err`; no operand is an error. It is refused instead where its command byte is a RAM write (log entry 10). -/
def Obligations.SetCalClockWritesNineBytes : Prop :=
  ∀ (p : Ports) (s : State), s.regs.initState = .ready → s.burstHitsRam = false →
    ∃ (f : List Byte) (t : State), exec (.setCalClock p) s = .next t ∧ IsCalFrame s.params p f ∧
      t.history = s.history ++ [writeEvent f (s.draws.okAt 0)] ∧
      t.regs = { s.regs with err := if s.draws.okAt 0 then .ok else .transportError } ∧ s.Ran 1 t

/-- R59: under parameters that meet R75, SET_CAL_CLOCK in READY is refused exactly when a chip is attached, its command byte
goes out unreversed, and the reversal of `NAT(CLOCK_BURST)` is `NAT(RAM)` or `NAT(RAM_BURST)`; that is what `burstHitsRam`
says in the other statements. That only a RAM write is refused, and under write-protect too, is the model's choice (log
entry 10). -/
def Obligations.RamCommandRefused : Prop :=
  ∀ s : State, s.params.wf →
    (s.burstHitsRam = true ↔ s.CalFrameHitsRam) ∧
    ∀ p : Ports, s.regs.initState = .ready → (exec (.setCalClock p) s = .refused .ramCommand ↔ s.CalFrameHitsRam)

/-! ### The reference chip (R57 to R67) -/

/-- R63, R67 (b): the reads against a still chip: GET_SECONDS gets the reversed seconds register, GET_CAL_CLOCK decodes
the seven registers themselves (the day as `P_DAY_DECODE` says), GET_CLOCK their reversals by default; the chip is
unchanged. -/
def Obligations.ReadsAgainstChip : Prop :=
  ∀ (s : State) (c : Chip), s.params.wf → s.chip = some c → s.still c = true → s.regs.initState = .ready →
    s.draws.okAt 0 = true → s.params.decodeCheck = false →
    (∃ t, exec .getSeconds s = .next t ∧ t.chip = some c ∧ t.regs.resByte = some (bitRev c.seconds)) ∧
    (∃ t, exec .getClock s = .next t ∧ t.chip = some c ∧ (s.params.clockReadReversed = false →
      t.regs.resSec = some (bcdDec (bitRev c.seconds)) ∧ t.regs.resMin = some (bcdDec (bitRev c.minutes)) ∧
      t.regs.resHour = some (bcdDec (bitRev c.hours)))) ∧
    (∃ t, exec .getCalClock s = .next t ∧ t.chip = some c ∧
      t.regs.clk = (some (bcdDec c.seconds), some (bcdDec c.minutes), some (bcdDec c.hours)) ∧
      t.regs.resMonth = some (bcdDec c.month) ∧ t.regs.resDate = some (bcdDec c.date) ∧
      (s.params.dayDecode = .bcd → t.regs.resDay = some (bcdDec c.day)) ∧
      (s.params.dayDecode = .plain → t.regs.resDay = some c.day) ∧
      (∃ y : Half, t.regs.resYear = some y ∧ y.toNat = 2000 + (bcdDec c.year).toNat))

/-- R189, R67 (b): against a still chip that holds valid BCD, the two burst reads agree on the clock, under the default
`P_CLOCK_READ_REVERSED`, exactly when every clock byte is its own reversal. -/
def Obligations.BurstReadsAgreeOnPalindromes : Prop :=
  ∀ (s : State) (c : Chip), s.params.wf → s.chip = some c → s.still c = true → s.regs.initState = .ready →
    s.draws.okAt 0 = true → s.params.decodeCheck = false → s.params.clockReadReversed = false →
    Decimal c.seconds → Decimal c.minutes → Decimal c.hours →
    ∃ t u, exec .getClock s = .next t ∧ exec .getCalClock s = .next u ∧
      (t.regs.clk = u.regs.clk ↔
        bitRev c.seconds = c.seconds ∧ bitRev c.minutes = c.minutes ∧ bitRev c.hours = c.hours)

/-- R60, R61, R65: SET_SECONDS against a still chip reports what the transport did and reaches N[SECONDS] alone. After an
`ok` it is left as it was while write-protect is set, and holds the BCD byte of 0..99 otherwise; after an `err` it may hold
any byte, some draws give each. That it may under write-protect too is the model's reading (log entry 20). -/
def Obligations.SetSecondsAgainstChip : Prop :=
  ∀ (v : Byte) (s : State) (c : Chip), s.params.wf → s.chip = some c → s.still c = true →
    s.regs.initState = .ready →
    (s.draws.okAt 0 = true → ∃ (x : Byte) (t : State), exec (.setSeconds v) s = .next t ∧ t.regs.err = .ok ∧
      (c.writeProtected s.params = true → t.chip = some c) ∧
      (c.writeProtected s.params = false → t.chip = some { c with seconds := x }) ∧
      (v.toNat ≤ 99 → Encodes v.toNat x)) ∧
    (s.draws.okAt 0 = false → ∃ (x : Byte) (t : State), exec (.setSeconds v) s = .next t ∧
      t.regs.err = .transportError ∧ t.chip = some { c with seconds := x }) ∧
    (∀ x : Byte, ∃ (d : Draws) (t : State), d.okAt 0 = false ∧
      exec (.setSeconds v) { s with draws := d } = .next t ∧ t.chip = some { c with seconds := x })

/-- R61, R62: SET_CAL_CLOCK against a still chip that takes its command byte (`P_BURST_WRITE_ADDR_REVERSED`), answered
`ok`, fields in their source ranges: nothing changes while write-protect is set and the block still reports `OK`; otherwise the seven
registers hold the BCD bytes and write-protect is 0. -/
def Obligations.SetCalClockAgainstChip : Prop :=
  ∀ (p : Ports) (s : State) (c : Chip), s.params.wf → s.params.burstWriteAddrReversed = true → s.chip = some c →
    s.still c = true → s.regs.initState = .ready → s.draws.okAt 0 = true → inCalendar p →
    ∃ t, exec (.setCalClock p) s = .next t ∧ t.regs.err = .ok ∧
      (c.writeProtected s.params = true → t.chip = some c) ∧
      (c.writeProtected s.params = false → ∃ c', t.chip = some c' ∧ Encodes p.secIn.toNat c'.seconds ∧
        Encodes p.minIn.toNat c'.minutes ∧ Encodes p.hourIn.toNat c'.hours ∧ Encodes p.dateIn.toNat c'.date ∧
        Encodes p.monthIn.toNat c'.month ∧ Encodes p.dayIn.toNat c'.day ∧
        Encodes (p.yearIn.toNat - 2000) c'.year ∧ c'.writeProtect = 0 ∧ c'.ram = c.ram)

/-- R67 (c), R59: under `P_BURST_WRITE_ADDR_REVERSED = false`, a command byte whose reversal has bit 0 set is a read in a
write frame: the still chip is unchanged, and the block reports `OK`. That this holds of a read of RAM or RAM_BURST too, and
is no refusal there, is the model's choice (log entry 10). -/
def Obligations.UnreversedBurstWriteIgnored : Prop :=
  ∀ (p : Ports) (s : State) (c : Chip), s.params.wf → s.params.burstWriteAddrReversed = false →
    (bitRev (s.params.nat.get .clockBurst)).getLsbD 0 = true → s.chip = some c → s.still c = true →
    s.regs.initState = .ready → s.draws.okAt 0 = true →
    ∃ t, exec (.setCalClock p) s = .next t ∧ t.chip = some c ∧ t.regs = { s.regs with err := .ok }

/-- R190, I3: SET_CAL_CLOCK answered `err` against a chip: the eight burst registers may hold any values, some draws give
each, and the RAM is kept. That this holds whatever the chip's write-protect flag is and whatever it takes the command byte
for is the model's reading (log entry 20); R65 alone leaves nothing unspecified where the frame would have written nothing.
The block reports TransportError and changes nothing else of its own. It is refused instead where its command byte is a RAM
write (log entry 10). -/
def Obligations.FailedSetCalClockAgainstChip : Prop :=
  ∀ (p : Ports) (s : State) (c : Chip), s.chip = some c → s.regs.initState = .ready → s.burstHitsRam = false →
    (s.draws.okAt 0 = false → ∃ (t : State) (c' : Chip), exec (.setCalClock p) s = .next t ∧
      t.regs = { s.regs with err := .transportError } ∧ t.chip = some c' ∧ c'.ram = c.ram) ∧
    (∀ v : Chip, v.ram = c.ram → ∃ (d : Draws) (t : State), d.okAt 0 = false ∧
      exec (.setCalClock p) { s with draws := d } = .next t ∧ t.chip = some v)

/-- R64, R63: the reads against a chip under `P_CHIP_TICKS = free`. While its clock is halted nothing on it moves. While it
runs, the time and date registers may take any values before the call, some draws give each, but bit 7 of the seconds stays
0; write-protect and the RAM are kept; and GET_SECONDS answered `ok` gets the seconds as they then are. That nothing moves
before the first call of a run is the model's choice (log entry 11). -/
def Obligations.FreeTicksMoveRunningChip : Prop :=
  ∀ (i : Instr) (s : State) (c : Chip), i = .getSeconds ∨ i = .getClock ∨ i = .getCalClock →
    s.chip = some c → s.params.chipTicks = .free → s.regs.initState = .ready →
    (c.halted = true ∨ s.history = [] → ∃ t, exec i s = .next t ∧ t.chip = some c) ∧
    (c.halted = false → s.history ≠ [] →
      (∃ (t : State) (c' : Chip), exec i s = .next t ∧ t.chip = some c' ∧ c'.halted = false ∧
        c'.writeProtect = c.writeProtect ∧ c'.ram = c.ram ∧
        (i = .getSeconds → s.params.wf → s.draws.okAt 0 = true → t.regs.resByte = some (bitRev c'.seconds))) ∧
      (∀ v : Chip, v.halted = false → v.writeProtect = c.writeProtect → v.ram = c.ram →
        ∃ (d : Draws) (t : State), d.okAt 0 = s.draws.okAt 0 ∧ exec i { s with draws := d } = .next t ∧
          t.chip = some v))

/-- R64, R60, R61: SET_SECONDS answered `ok` against a running chip under `P_CHIP_TICKS = free`: write-protect and the RAM are
kept; while write-protect is set the clock goes on running, and otherwise the seconds hold the BCD byte of 0..99. -/
def Obligations.SetSecondsAgainstRunningChip : Prop :=
  ∀ (v : Byte) (s : State) (c : Chip), s.params.wf → s.chip = some c → s.params.chipTicks = .free →
    c.halted = false → s.regs.initState = .ready → s.draws.okAt 0 = true →
    ∃ (t : State) (c' : Chip), exec (.setSeconds v) s = .next t ∧ t.regs = { s.regs with err := .ok } ∧
      t.chip = some c' ∧ c'.writeProtect = c.writeProtect ∧ c'.ram = c.ram ∧
      (c.writeProtected s.params = true → c'.halted = false) ∧
      (c.writeProtected s.params = false → v.toNat ≤ 99 → Encodes v.toNat c'.seconds)

/-- R60, R61, R67 (a): INIT against a chip with frozen ticks, its calls answered `ok`, leaves write-protect 0 whatever it
was, and seconds 0 exactly when bit 0 of the natural seconds byte was set (not the clock-halt bit), every other register
alone. -/
def Obligations.InitAgainstChip : Prop :=
  ∀ (s : State) (c : Chip), s.params.wf → s.chip = some c → s.params.chipTicks = .frozen →
    s.regs.initState = .uninit → s.draws.okAt 0 = true → s.draws.okAt 1 = true → s.draws.okAt 2 = true →
    ∃ t, exec .init s = .next t ∧ t.regs = { s.regs with initState := .ready, err := .ok } ∧
      t.chip = some { c with
        writeProtect := 0, seconds := if c.seconds.getLsbD 0 then 0 else c.seconds }

/-- R145: against a chip with frozen ticks and write-protect clear, that takes the command byte as a CLOCK_BURST write
(`P_BURST_WRITE_ADDR_REVERSED`, or a palindromic natural constant), SET_CAL_CLOCK then GET_CAL_CLOCK gives every field in
its source range back exactly. -/
def Obligations.CalendarRoundTrip : Prop :=
  ∀ (p : Ports) (s : State) (c : Chip), s.params.wf → s.chip = some c → s.params.chipTicks = .frozen →
    c.writeProtected s.params = false →
    (s.params.burstWriteAddrReversed = true ∨
      bitRev (s.params.nat.get .clockBurst) = s.params.nat.get .clockBurst) →
    s.regs.initState = .ready → s.draws.okAt 0 = true → s.draws.okAt 1 = true → inCalendar p →
    ∃ t u, exec (.setCalClock p) s = .next t ∧ exec .getCalClock t = .next u ∧
      u.regs = { s.regs with
        err := .ok, resSec := some p.secIn, resMin := some p.minIn, resHour := some p.hourIn,
        resYear := some p.yearIn, resMonth := some p.monthIn, resDate := some p.dateIn, resDay := some p.dayIn }

/-- R43: whatever the block does against a chip it can do against the oracle: for a command that completes with a chip
attached, some draws make it complete alone with the same registers and the same history. A claim about the block alone
therefore covers every chip (the form of the draws and of the chip in the state is the model's, log entries 3 and 8). -/
def Obligations.OracleCoversChip : Prop :=
  ∀ (i : Instr) (s t : State), exec i s = .next t →
    ∃ (d : Draws) (u : State), exec i { s with chip := none, draws := d } = .next u ∧
      u.regs = t.regs ∧ u.history = t.history

/-! ### Rules of the whole machine -/

/-- Every step keeps the invariant `State.Inv`, from every state that has it. The form of the RAM in it is the model's
(log entry 9). -/
def Obligations.StepKeepsInv : Prop :=
  ∀ s t : State, s.Inv → step s = .next t → t.Inv

/-- The reset state has the invariant; that it holds no chip and no event is the model's choice (log entries 8
and 13). -/
def Obligations.ResetHasInv : Prop :=
  State.reset.Inv

/-- R47: a step only extends the history, by at most three events, each one of the calls R47 lists. -/
def Obligations.StepSendsOnlyListedFrames : Prop :=
  ∀ s t : State, step s = .next t →
    ∃ es, t.history = s.history ++ es ∧ es.length ≤ 3 ∧ ∀ e ∈ es, e.allowed s.params

/-- R168: a command that ends in an error writes no result register and leaves `INIT_STATE`. -/
def Obligations.ErrorWritesNoResult : Prop :=
  ∀ (i : Instr) (s t : State), exec i s = .next t → t.regs.err ≠ .ok →
    t.regs.results = s.regs.results ∧ t.regs.initState = s.regs.initState

/-- R26, R27, R28: which commands write which result registers, and only on success. -/
def Obligations.ResultsWrittenByTheirCommands : Prop :=
  ∀ (i : Instr) (s t : State), exec i s = .next t →
    (t.regs.resByte ≠ s.regs.resByte → i.writesByte = true ∧ t.regs.err = .ok) ∧
    (t.regs.clk ≠ s.regs.clk → (i = .getClock ∨ i = .getCalClock) ∧ t.regs.err = .ok) ∧
    (t.regs.cal ≠ s.regs.cal → i = .getCalClock ∧ t.regs.err = .ok)

/-- R160, R23: after a command, `FAULT` is what it was or the fault its code is. -/
def Obligations.FaultFollowsErr : Prop :=
  ∀ (i : Instr) (s t : State), exec i s = .next t → t.regs.fault = (s.regs.fault || t.regs.err.isFault)

/-- R184, R49: no step changes the parameters, attaches or removes a chip, or reaches the chip's RAM. -/
def Obligations.ParamsAndRamUntouched : Prop :=
  ∀ s t : State, step s = .next t → t.params = s.params ∧ t.chip.map Chip.ram = s.chip.map Chip.ram

/-- Every command completes in every state, but for a SET_CAL_CLOCK whose command byte would be a RAM write of the attached
chip (R59). That a RAM read in a write frame completes, and that a RAM write is refused under write-protect too, is the
model's choice (log entry 10). -/
def Obligations.EveryCommandCompletes : Prop :=
  ∀ (i : Instr) (s : State), (∃ t, exec i s = .next t) ∨
    (exec i s = .refused .ramCommand ∧ s.burstHitsRam = true ∧ ∃ p, i = .setCalClock p)

end
end

