-- ==== Sys2Proof/Laws/Operands.lean ====
section
/-! SUPPORT. What the pure operand transforms do: bit reversal, the codec and the address bytes, and how the reference
chip reads the block's address bytes back. -/

namespace Sys2Proof.Machine

theorem bitRev_getLsbD (b : Byte) (i : Nat) (h : i < 8) : (bitRev b).getLsbD i = b.getLsbD (7 - i) := by
  rw [bitRev, BitVec.getLsbD_reverse, BitVec.getMsbD]
  simp only [h, decide_true, Bool.true_and]

@[simp] theorem bitRev_bitRev (b : Byte) : bitRev (bitRev b) = b := by
  simp [bitRev]

theorem bitRev_or (a b : Byte) : bitRev (a ||| b) = bitRev a ||| bitRev b := by
  refine BitVec.eq_of_getLsbD_eq fun i h => ?_
  rw [BitVec.getLsbD_or, bitRev_getLsbD _ _ h, bitRev_getLsbD _ _ h, bitRev_getLsbD _ _ h, BitVec.getLsbD_or]

theorem hiNibble_eq (b : Byte) : hiNibble b = b.toNat / 16 := by
  have := b.isLt
  simp [hiNibble, BitVec.extractLsb'_toNat, Nat.shiftRight_eq_div_pow]
  omega

theorem loNibble_eq (b : Byte) : loNibble b = b.toNat % 16 := by
  simp [loNibble, BitVec.extractLsb'_toNat]

theorem hiNibble_lt (b : Byte) : hiNibble b < 16 := (b.extractLsb' 4 4).isLt

theorem loNibble_lt (b : Byte) : loNibble b < 16 := (b.extractLsb' 0 4).isLt

/-- Nothing wraps in R101. -/
theorem bcdDec_toNat (b : Byte) : (bcdDec b).toNat = 10 * hiNibble b + loNibble b := by
  have h := hiNibble_lt b
  have l := loNibble_lt b
  simp only [bcdDec, BitVec.toNat_ofNat]
  omega

theorem bcdDec_le (b : Byte) : (bcdDec b).toNat ≤ 165 := by
  have h := hiNibble_lt b
  have l := loNibble_lt b
  rw [bcdDec_toNat]
  omega

theorem bcdPack_toNat (v : Nat) (h : v ≤ 99) : (bcdPack v).toNat = 16 * (v / 10) + v % 10 := by
  simp only [bcdPack, BitVec.toNat_append, BitVec.toNat_ofNat]
  rw [Nat.mod_eq_of_lt (by omega : v / 10 < 2 ^ 4), Nat.mod_eq_of_lt (by omega : v % 10 < 2 ^ 4),
    ← Nat.shiftLeft_add_eq_or_of_lt (by omega : v % 10 < 2 ^ 4), Nat.shiftLeft_eq]
  omega

theorem hiNibble_bcdPack (v : Nat) (h : v ≤ 99) : hiNibble (bcdPack v) = v / 10 := by
  rw [hiNibble_eq, bcdPack_toNat v h]
  omega

theorem loNibble_bcdPack (v : Nat) (h : v ≤ 99) : loNibble (bcdPack v) = v % 10 := by
  rw [loNibble_eq, bcdPack_toNat v h]
  omega

/-- The codec's round trip on the values `BcdEnc` defines (R103). -/
theorem bcdDec_bcdPack (v : Nat) (h : v ≤ 99) : (bcdDec (bcdPack v)).toNat = v := by
  rw [bcdDec_toNat, hiNibble_bcdPack v h, loNibble_bcdPack v h]
  omega

theorem yearOf_toNat (v : Byte) : (yearOf v).toNat = 2000 + v.toNat := by
  have := v.isLt
  simp [yearOf, BitVec.toNat_add, BitVec.toNat_setWidth]
  omega

theorem mem_all (r : RegId) : r ∈ RegId.all := by
  cases r <;> decide

/-- The three checks of R75. -/
theorem wf_iff (p : Params) :
    p.wf = true ↔ p.nat.seconds = 0x80 ∧ (∀ r, (p.nat.get r).getLsbD 0 = false) ∧ (RegId.all.map p.nat.get).Nodup := by
  simp only [Params.wf, NatMap.secondsFixed, NatMap.flagBitClear, NatMap.distinct, Bool.and_eq_true, beq_iff_eq,
    List.all_eq_true, decide_eq_true_eq, Bool.not_eq_true', and_assoc]
  exact and_congr_right fun _ => and_congr_left fun _ => ⟨fun h r => h r (mem_all r), fun h r _ => h r⟩

/-- Distinct constants name distinct registers (R75 (c)). -/
theorem nat_injective (p : Params) (h : p.wf) (a b : RegId) (e : p.nat.get a = p.nat.get b) : a = b :=
  List.inj_on_of_nodup_map ((wf_iff p).1 h).2.2 (mem_all a) (mem_all b) e

theorem regOfNat_get (p : Params) (h : p.wf) (r : RegId) : regOfNat p.nat (p.nat.get r) = some r := by
  unfold regOfNat
  cases hf : RegId.all.find? fun q => p.nat.get q == p.nat.get r with
  | none => exact absurd (List.find?_eq_none.1 hf r (mem_all r)) (by simp)
  | some q =>
    have := List.find?_some hf
    rw [nat_injective p h q r (by simpa using this)]

/-- Masking off the direction flag gives the natural constant back (R59, R75 (b)). -/
theorem natural_and_mask (p : Params) (h : p.wf) (r : RegId) (read : Bool) :
    (p.nat.get r ||| if read then readFlag else 0) &&& 0xFE = p.nat.get r := by
  have h0 := ((wf_iff p).1 h).2.1 r
  generalize p.nat.get r = n at h0
  revert n read
  decide

/-- Bit 0 of the natural address is the direction (R76). -/
theorem natural_flag (p : Params) (h : p.wf) (r : RegId) (read : Bool) :
    (p.nat.get r ||| if read then readFlag else 0).getLsbD 0 = read := by
  have h0 := ((wf_iff p).1 h).2.1 r
  generalize p.nat.get r = n at h0
  revert n read
  decide

/-- The reference chip reads every address byte the block builds as the register and direction it was built for (R59,
R76, R112). -/
theorem chipCommand_makeAddr (p : Params) (h : p.wf) (r : RegId) (read : Bool) :
    chipCommand p (makeAddr p.nat r read) = if read then .read r else .write r := by
  simp only [chipCommand, makeAddr, bitRev_bitRev, natural_and_mask p h, natural_flag p h, regOfNat_get p h]

end Sys2Proof.Machine
end

