-- ==== Sys2Proof/Laws/State.lean ====
section
/-! SUPPORT. One lemma per field per update of the state, true by rfl and tagged simp, so that no later proof unfolds a
record update. -/

namespace Sys2Proof.Machine

/-! ### raise -/

@[simp] theorem State.raise_regs (e : ErrCode) (s : State) : (s.raise e).regs = s.regs.raise e := rfl
@[simp] theorem State.raise_params (e : ErrCode) (s : State) : (s.raise e).params = s.params := rfl
@[simp] theorem State.raise_draws (e : ErrCode) (s : State) : (s.raise e).draws = s.draws := rfl
@[simp] theorem State.raise_chip (e : ErrCode) (s : State) : (s.raise e).chip = s.chip := rfl
@[simp] theorem State.raise_history (e : ErrCode) (s : State) : (s.raise e).history = s.history := rfl
@[simp] theorem State.raise_inputs (e : ErrCode) (s : State) : (s.raise e).inputs = s.inputs := rfl

/-! ### complete -/

@[simp] theorem State.complete_regs (s : State) : (s.complete).regs = s.regs.complete := rfl
@[simp] theorem State.complete_params (s : State) : (s.complete).params = s.params := rfl
@[simp] theorem State.complete_draws (s : State) : (s.complete).draws = s.draws := rfl
@[simp] theorem State.complete_chip (s : State) : (s.complete).chip = s.chip := rfl
@[simp] theorem State.complete_history (s : State) : (s.complete).history = s.history := rfl
@[simp] theorem State.complete_inputs (s : State) : (s.complete).inputs = s.inputs := rfl

/-! ### illegal -/

@[simp] theorem State.illegal_regs (s : State) : (s.illegal).regs = s.regs.raise .illegalCommand := rfl
@[simp] theorem State.illegal_params (s : State) : (s.illegal).params = s.params := rfl
@[simp] theorem State.illegal_draws (s : State) : (s.illegal).draws = s.draws := rfl
@[simp] theorem State.illegal_chip (s : State) : (s.illegal).chip = s.chip := rfl
@[simp] theorem State.illegal_history (s : State) : (s.illegal).history = s.history := rfl
@[simp] theorem State.illegal_inputs (s : State) : (s.illegal).inputs = s.inputs := rfl

/-! ### setResByte -/

@[simp] theorem State.setResByte_regs (v : Byte) (s : State) :
    (s.setResByte v).regs = { s.regs with resByte := some v } := rfl
@[simp] theorem State.setResByte_params (v : Byte) (s : State) : (s.setResByte v).params = s.params := rfl
@[simp] theorem State.setResByte_draws (v : Byte) (s : State) : (s.setResByte v).draws = s.draws := rfl
@[simp] theorem State.setResByte_chip (v : Byte) (s : State) : (s.setResByte v).chip = s.chip := rfl
@[simp] theorem State.setResByte_history (v : Byte) (s : State) : (s.setResByte v).history = s.history := rfl
@[simp] theorem State.setResByte_inputs (v : Byte) (s : State) : (s.setResByte v).inputs = s.inputs := rfl

/-! ### setResClk -/

@[simp] theorem State.setResClk_regs (a b c : Byte) (s : State) :
    (s.setResClk a b c).regs = { s.regs with resSec := some a, resMin := some b, resHour := some c } := rfl
@[simp] theorem State.setResClk_params (a b c : Byte) (s : State) : (s.setResClk a b c).params = s.params := rfl
@[simp] theorem State.setResClk_draws (a b c : Byte) (s : State) : (s.setResClk a b c).draws = s.draws := rfl
@[simp] theorem State.setResClk_chip (a b c : Byte) (s : State) : (s.setResClk a b c).chip = s.chip := rfl
@[simp] theorem State.setResClk_history (a b c : Byte) (s : State) : (s.setResClk a b c).history = s.history := rfl
@[simp] theorem State.setResClk_inputs (a b c : Byte) (s : State) : (s.setResClk a b c).inputs = s.inputs := rfl

/-! ### setResCal -/

@[simp] theorem State.setResCal_regs (y : Half) (m d w : Byte) (s : State) :
    (s.setResCal y m d w).regs = { s.regs with resYear := some y, resMonth := some m, resDate := some d, resDay := some w } := rfl
@[simp] theorem State.setResCal_params (y : Half) (m d w : Byte) (s : State) :
    (s.setResCal y m d w).params = s.params := rfl
@[simp] theorem State.setResCal_draws (y : Half) (m d w : Byte) (s : State) :
    (s.setResCal y m d w).draws = s.draws := rfl
@[simp] theorem State.setResCal_chip (y : Half) (m d w : Byte) (s : State) : (s.setResCal y m d w).chip = s.chip := rfl
@[simp] theorem State.setResCal_history (y : Half) (m d w : Byte) (s : State) :
    (s.setResCal y m d w).history = s.history := rfl
@[simp] theorem State.setResCal_inputs (y : Half) (m d w : Byte) (s : State) :
    (s.setResCal y m d w).inputs = s.inputs := rfl

/-! ### becomeReady -/

@[simp] theorem State.becomeReady_regs (s : State) : (s.becomeReady).regs = { s.regs with initState := .ready } := rfl
@[simp] theorem State.becomeReady_params (s : State) : (s.becomeReady).params = s.params := rfl
@[simp] theorem State.becomeReady_draws (s : State) : (s.becomeReady).draws = s.draws := rfl
@[simp] theorem State.becomeReady_chip (s : State) : (s.becomeReady).chip = s.chip := rfl
@[simp] theorem State.becomeReady_history (s : State) : (s.becomeReady).history = s.history := rfl
@[simp] theorem State.becomeReady_inputs (s : State) : (s.becomeReady).inputs = s.inputs := rfl

/-! ### record -/

@[simp] theorem State.record_regs (e : Event) (s : State) : (s.record e).regs = s.regs := rfl
@[simp] theorem State.record_params (e : Event) (s : State) : (s.record e).params = s.params := rfl
@[simp] theorem State.record_draws (e : Event) (s : State) : (s.record e).draws = s.draws := rfl
@[simp] theorem State.record_chip (e : Event) (s : State) : (s.record e).chip = s.chip := rfl
@[simp] theorem State.record_history (e : Event) (s : State) : (s.record e).history = s.history ++ [e] := rfl
@[simp] theorem State.record_inputs (e : Event) (s : State) : (s.record e).inputs = s.inputs := rfl

/-! ### setChip -/

@[simp] theorem State.setChip_regs (c : Chip) (s : State) : (s.setChip c).regs = s.regs := rfl
@[simp] theorem State.setChip_params (c : Chip) (s : State) : (s.setChip c).params = s.params := rfl
@[simp] theorem State.setChip_draws (c : Chip) (s : State) : (s.setChip c).draws = s.draws := rfl
@[simp] theorem State.setChip_chip (c : Chip) (s : State) : (s.setChip c).chip = some c := rfl
@[simp] theorem State.setChip_history (c : Chip) (s : State) : (s.setChip c).history = s.history := rfl
@[simp] theorem State.setChip_inputs (c : Chip) (s : State) : (s.setChip c).inputs = s.inputs := rfl

/-! ### blockReset -/

@[simp] theorem State.blockReset_regs (s : State) : (s.blockReset).regs = Regs.reset := rfl
@[simp] theorem State.blockReset_params (s : State) : (s.blockReset).params = s.params := rfl
@[simp] theorem State.blockReset_draws (s : State) : (s.blockReset).draws = s.draws := rfl
@[simp] theorem State.blockReset_chip (s : State) : (s.blockReset).chip = s.chip := rfl
@[simp] theorem State.blockReset_history (s : State) : (s.blockReset).history = s.history := rfl
@[simp] theorem State.blockReset_inputs (s : State) : (s.blockReset).inputs = s.inputs := rfl

/-! ### drawOk -/

@[simp] theorem State.drawOk_regs (s : State) : s.drawOk.2.regs = s.regs := rfl
@[simp] theorem State.drawOk_params (s : State) : s.drawOk.2.params = s.params := rfl
@[simp] theorem State.drawOk_draws (s : State) : s.drawOk.2.draws = s.draws.dropOk := rfl
@[simp] theorem State.drawOk_chip (s : State) : s.drawOk.2.chip = s.chip := rfl
@[simp] theorem State.drawOk_history (s : State) : s.drawOk.2.history = s.history := rfl
@[simp] theorem State.drawOk_inputs (s : State) : s.drawOk.2.inputs = s.inputs := rfl

/-! ### drawBytes -/

@[simp] theorem State.drawBytes_regs (n : Nat) (s : State) : (s.drawBytes n).2.regs = s.regs := rfl
@[simp] theorem State.drawBytes_params (n : Nat) (s : State) : (s.drawBytes n).2.params = s.params := rfl
@[simp] theorem State.drawBytes_draws (n : Nat) (s : State) : (s.drawBytes n).2.draws = s.draws.dropBytes n := rfl
@[simp] theorem State.drawBytes_chip (n : Nat) (s : State) : (s.drawBytes n).2.chip = s.chip := rfl
@[simp] theorem State.drawBytes_history (n : Nat) (s : State) : (s.drawBytes n).2.history = s.history := rfl
@[simp] theorem State.drawBytes_inputs (n : Nat) (s : State) : (s.drawBytes n).2.inputs = s.inputs := rfl

/-! ### draw8 -/

@[simp] theorem State.draw8_regs (s : State) : s.draw8.2.regs = s.regs := rfl
@[simp] theorem State.draw8_params (s : State) : s.draw8.2.params = s.params := rfl
@[simp] theorem State.draw8_draws (s : State) : s.draw8.2.draws = s.draws.dropBytes 1 := rfl
@[simp] theorem State.draw8_chip (s : State) : s.draw8.2.chip = s.chip := rfl
@[simp] theorem State.draw8_history (s : State) : s.draw8.2.history = s.history := rfl
@[simp] theorem State.draw8_inputs (s : State) : s.draw8.2.inputs = s.inputs := rfl

/-! ### Regs.raise -/

@[simp] theorem Regs.raise_initState (e : ErrCode) (r : Regs) : (r.raise e).initState = r.initState := rfl
@[simp] theorem Regs.raise_fault (e : ErrCode) (r : Regs) : (r.raise e).fault = (r.fault || e.isFault) := rfl
@[simp] theorem Regs.raise_err (e : ErrCode) (r : Regs) : (r.raise e).err = e := rfl
@[simp] theorem Regs.raise_resByte (e : ErrCode) (r : Regs) : (r.raise e).resByte = r.resByte := rfl
@[simp] theorem Regs.raise_resSec (e : ErrCode) (r : Regs) : (r.raise e).resSec = r.resSec := rfl
@[simp] theorem Regs.raise_resMin (e : ErrCode) (r : Regs) : (r.raise e).resMin = r.resMin := rfl
@[simp] theorem Regs.raise_resHour (e : ErrCode) (r : Regs) : (r.raise e).resHour = r.resHour := rfl
@[simp] theorem Regs.raise_resYear (e : ErrCode) (r : Regs) : (r.raise e).resYear = r.resYear := rfl
@[simp] theorem Regs.raise_resMonth (e : ErrCode) (r : Regs) : (r.raise e).resMonth = r.resMonth := rfl
@[simp] theorem Regs.raise_resDate (e : ErrCode) (r : Regs) : (r.raise e).resDate = r.resDate := rfl
@[simp] theorem Regs.raise_resDay (e : ErrCode) (r : Regs) : (r.raise e).resDay = r.resDay := rfl
@[simp] theorem Regs.raise_results (e : ErrCode) (r : Regs) : (r.raise e).results = r.results := rfl

/-! ### Regs.complete -/

@[simp] theorem Regs.complete_initState (r : Regs) : (r.complete).initState = r.initState := rfl
@[simp] theorem Regs.complete_fault (r : Regs) : (r.complete).fault = r.fault := rfl
@[simp] theorem Regs.complete_err (r : Regs) : (r.complete).err = ErrCode.ok := rfl
@[simp] theorem Regs.complete_resByte (r : Regs) : (r.complete).resByte = r.resByte := rfl
@[simp] theorem Regs.complete_resSec (r : Regs) : (r.complete).resSec = r.resSec := rfl
@[simp] theorem Regs.complete_resMin (r : Regs) : (r.complete).resMin = r.resMin := rfl
@[simp] theorem Regs.complete_resHour (r : Regs) : (r.complete).resHour = r.resHour := rfl
@[simp] theorem Regs.complete_resYear (r : Regs) : (r.complete).resYear = r.resYear := rfl
@[simp] theorem Regs.complete_resMonth (r : Regs) : (r.complete).resMonth = r.resMonth := rfl
@[simp] theorem Regs.complete_resDate (r : Regs) : (r.complete).resDate = r.resDate := rfl
@[simp] theorem Regs.complete_resDay (r : Regs) : (r.complete).resDay = r.resDay := rfl
@[simp] theorem Regs.complete_results (r : Regs) : (r.complete).results = r.results := rfl

end Sys2Proof.Machine
end

