-- ==== Sys2Proof/Laws/Ops.lean ====
section
/-! SUPPORT. What each shared operation can do, said once: draws and the codec disturb nothing but the bytes to come; a
transport call appends its one event, takes one outcome and leaves the block's registers alone. -/

namespace Sys2Proof.Machine

/-- Nothing but the bytes to come and the chip's eight registers may differ. -/
structure State.Undisturbed (s t : State) : Prop where
  regs    : t.regs = s.regs
  params  : t.params = s.params
  history : t.history = s.history
  inputs  : t.inputs = s.inputs
  okAt    : t.draws.okAt = s.draws.okAt
  ram     : t.chip.map Chip.ram = s.chip.map Chip.ram

/-- One transport call was made: its event `e` was appended and one outcome taken. -/
structure State.Called (s t : State) (e : Event) : Prop where
  regs    : t.regs = s.regs
  params  : t.params = s.params
  history : t.history = s.history ++ [e]
  inputs  : t.inputs = s.inputs
  okAt    : ∀ k, t.draws.okAt k = s.draws.okAt (k + 1)
  ram     : t.chip.map Chip.ram = s.chip.map Chip.ram

theorem State.Undisturbed.refl (s : State) : s.Undisturbed s := ⟨rfl, rfl, rfl, rfl, rfl, rfl⟩

theorem State.Undisturbed.trans {s t u : State} (a : s.Undisturbed t) (b : t.Undisturbed u) : s.Undisturbed u :=
  ⟨b.regs.trans a.regs, b.params.trans a.params, b.history.trans a.history, b.inputs.trans a.inputs,
    b.okAt.trans a.okAt, b.ram.trans a.ram⟩

theorem State.Undisturbed.called {s t u : State} {e : Event} (a : s.Undisturbed t) (b : t.Called u e) :
    s.Called u e :=
  ⟨b.regs.trans a.regs, b.params.trans a.params, by rw [b.history, a.history], b.inputs.trans a.inputs,
    fun k => by rw [b.okAt, a.okAt], b.ram.trans a.ram⟩

/-! ### Draws -/

@[simp] theorem Draws.dropBytes_okAt (n : Nat) (d : Draws) : (d.dropBytes n).okAt = d.okAt := rfl

@[simp] theorem Draws.dropOk_okAt (d : Draws) (k : Nat) : d.dropOk.okAt k = d.okAt (k + 1) := by
  simp only [Draws.okAt, Draws.dropOk, List.getElem?_drop]
  rw [Nat.add_comm 1 k, Nat.add_assoc, Nat.add_comm 1 k]

@[simp] theorem Draws.dropOk_byteAt (d : Draws) : d.dropOk.byteAt = d.byteAt := rfl

@[simp] theorem Draws.dropBytes_byteAt (n : Nat) (d : Draws) (k : Nat) :
    (d.dropBytes n).byteAt k = d.byteAt (n + k) := by
  simp only [Draws.byteAt, Draws.dropBytes, List.getElem?_drop, Nat.add_assoc]

@[simp] theorem State.drawOk_fst (s : State) : s.drawOk.1 = s.draws.okAt 0 := rfl

@[simp] theorem State.draw8_fst (s : State) : s.draw8.1 = s.draws.byteAt 0 := rfl

@[simp] theorem State.drawBytes_fst (n : Nat) (s : State) :
    (s.drawBytes n).1 = (List.range n).map s.draws.byteAt := rfl

theorem State.drawBytes_length (n : Nat) (s : State) : (s.drawBytes n).1.length = n := by simp

theorem State.drawBytes_undisturbed (n : Nat) (s : State) : s.Undisturbed (s.drawBytes n).2 :=
  ⟨rfl, rfl, rfl, rfl, rfl, rfl⟩

theorem State.draw8_undisturbed (s : State) : s.Undisturbed s.draw8.2 := ⟨rfl, rfl, rfl, rfl, rfl, rfl⟩

/-! ### The encoder -/

/-- On 0..99 the encoder is exact and draws nothing (R100). -/
theorem State.bcdEnc_of_le {v : Nat} (h : v ≤ 99) (s : State) : s.bcdEnc v = (bcdPack v, s) := by
  simp [State.bcdEnc, h]

/-- Above 99 the encoder draws (R100). -/
theorem State.bcdEnc_of_gt {v : Nat} (h : 99 < v) (s : State) : s.bcdEnc v = s.draw8 := by
  simp [State.bcdEnc, Nat.not_le.2 h]

theorem State.bcdEnc_undisturbed (v : Nat) (s : State) : s.Undisturbed (s.bcdEnc v).2 := by
  unfold State.bcdEnc
  split
  · exact .refl s
  · exact s.draw8_undisturbed

theorem State.bcdEnc_chip (v : Nat) (s : State) : (s.bcdEnc v).2.chip = s.chip := by
  unfold State.bcdEnc
  split <;> rfl

/-- A year in 2000..2099 is encoded as its two digits and draws nothing (R142, R144). -/
theorem State.bcdYear_of_range {y : Half} (h : 2000 ≤ y.toNat) (h' : y.toNat ≤ 2099) (s : State) :
    s.bcdYear y = (bcdPack (y.toNat - 2000), s) := by
  simp [State.bcdYear, yearInRange, h, h', State.bcdEnc_of_le (show y.toNat - 2000 ≤ 99 by omega)]

theorem State.bcdYear_undisturbed (y : Half) (s : State) : s.Undisturbed (s.bcdYear y).2 := by
  unfold State.bcdYear
  split
  · exact s.bcdEnc_undisturbed _
  · exact s.draw8_undisturbed

theorem State.bcdYear_chip (y : Half) (s : State) : (s.bcdYear y).2.chip = s.chip := by
  unfold State.bcdYear
  split
  · exact s.bcdEnc_chip _
  · rfl

/-! ### The chip behind the transport -/

@[simp] theorem Chip.set_ram (c : Chip) (r : ChipReg) (v : Byte) : (c.set r v).ram = c.ram := by
  cases r <;> rfl

@[simp] theorem Chip.get_set_same (c : Chip) (r : ChipReg) (v : Byte) : (c.set r v).get r = v := by
  cases r <;> rfl

theorem Chip.get_set_other (c : Chip) {r q : ChipReg} (h : q ≠ r) (v : Byte) : (c.set r v).get q = c.get q := by
  cases r <;> cases q <;> first | rfl | exact absurd rfl h

/-- Writing chip registers draws at most bytes, and reaches no RAM. -/
theorem State.storeAll_spec (ws : List (ChipReg × Option Byte)) (c : Chip) (s : State) :
    s.Undisturbed (State.storeAll c ws s).2 ∧ (State.storeAll c ws s).2.chip = s.chip ∧
      (State.storeAll c ws s).1.ram = c.ram := by
  induction ws generalizing c s with
  | nil => exact ⟨.refl s, rfl, rfl⟩
  | cons w ws ih =>
    obtain ⟨r, v | v⟩ := w
    · obtain ⟨u, k, m⟩ := ih (c.set r s.draw8.1) s.draw8.2
      exact ⟨s.draw8_undisturbed.trans u, k, by simpa [State.storeAll] using m⟩
    · obtain ⟨u, k, m⟩ := ih (c.set r v) s
      exact ⟨u, k, by simpa [State.storeAll] using m⟩

/-- A register that is not written keeps its value. -/
theorem State.storeAll_get_other (ws : List (ChipReg × Option Byte)) (c : Chip) (s : State) (q : ChipReg)
    (h : ∀ w ∈ ws, w.1 ≠ q) : (State.storeAll c ws s).1.get q = c.get q := by
  induction ws generalizing c s with
  | nil => rfl
  | cons w ws ih =>
    have hq : q ≠ w.1 := fun e => h w (by simp) e.symm
    have ht : ∀ w' ∈ ws, w'.1 ≠ q := fun w' m => h w' (by simp [m])
    obtain ⟨r, v | v⟩ := w
    · simp only [State.storeAll, ih _ _ ht, Chip.get_set_other c hq]
    · simp only [State.storeAll, ih _ _ ht, Chip.get_set_other c hq]

/-- Eight draws in burst order replace every register (R65, R66). -/
theorem State.storeAll_burstDraws (c : Chip) (s : State) :
    (State.storeAll c (burstOrder.map fun r => (r, none)) s).1 =
      { seconds := s.draws.byteAt 0, minutes := s.draws.byteAt 1, hours := s.draws.byteAt 2, date := s.draws.byteAt 3,
        month := s.draws.byteAt 4, day := s.draws.byteAt 5, year := s.draws.byteAt 6,
        writeProtect := s.draws.byteAt 7, ram := c.ram } := by
  simp [burstOrder, State.storeAll, Chip.set]

/-- Time passing draws the seven time and date registers and keeps bit 7 of the seconds 0 (R64). -/
theorem Chip.ticked_fst (c : Chip) (s : State) :
    (c.ticked s).1 =
      { c with
        seconds := s.draws.byteAt 0 &&& 0x7F, minutes := s.draws.byteAt 1, hours := s.draws.byteAt 2,
        date := s.draws.byteAt 3, month := s.draws.byteAt 4, day := s.draws.byteAt 5, year := s.draws.byteAt 6 } := by
  simp [Chip.ticked, timeRegs, State.storeAll, Chip.set]

/-- It takes seven draws. -/
theorem Chip.ticked_draws (c : Chip) (s : State) (k : Nat) :
    (c.ticked s).2.draws.byteAt k = s.draws.byteAt (7 + k) := by
  simp [Chip.ticked, timeRegs, State.storeAll, ← Nat.add_assoc]

/-- Putting a chip with the same RAM back disturbs nothing. -/
theorem State.Undisturbed.setChip {s t : State} (a : s.Undisturbed t) {c c' : Chip} (h : s.chip = some c)
    (m : c'.ram = c.ram) : s.Undisturbed (t.setChip c') :=
  ⟨a.regs, a.params, a.history, a.inputs, a.okAt, by simp [h, m]⟩

/-- Time passing changes at most the chip's registers and the bytes to come (R64). -/
theorem State.tick_undisturbed (s : State) : s.Undisturbed s.tick := by
  unfold State.tick
  split
  · exact .refl s
  · rename_i c h
    split
    · obtain ⟨u, -, m⟩ := State.storeAll_spec (timeRegs.map fun r => (r, none)) c s
      exact u.setChip h (by simpa [Chip.ticked] using m)
    · exact .refl s

/-- With no chip attached, under frozen ticks, or before the first call, no time passes (R64). -/
theorem State.tick_of_still (s : State) (h : s.chip = none ∨ s.params.chipTicks = .frozen ∨ s.history = []) :
    s.tick = s := by
  unfold State.tick
  split
  · rfl
  · rcases h with h | h | h <;> simp_all

/-- While the clock is halted no time passes (R64). -/
theorem State.tick_of_halted (s : State) (c : Chip) (h : s.chip = some c) (hh : c.halted = true) : s.tick = s := by
  simp [State.tick, h, hh]

/-- On a running chip with free ticks time passes before every call but the first (R64, log entry 11). -/
theorem State.tick_of_running (s : State) (c : Chip) (h : s.chip = some c) (f : s.params.chipTicks = .free)
    (r : c.halted = false) (e : s.history ≠ []) : s.tick = (c.ticked s).2.setChip (c.ticked s).1 := by
  simp [State.tick, h, f, r, e]

theorem State.chipWrite_undisturbed (ok : Bool) (frame : List Byte) (s : State) :
    s.Undisturbed (s.chipWrite ok frame) := by
  unfold State.chipWrite
  split
  · exact .refl s
  · rename_i c h
    obtain ⟨u, -, m⟩ := State.storeAll_spec
      (if ok then c.writes s.params frame else (failedTargets s.params frame).map fun r => (r, none)) c s
    exact u.setChip h m

theorem Chip.answer_length_le (p : Params) (c : Chip) (out : List Byte) (n : Nat) : (c.answer p out n).length ≤ n := by
  unfold Chip.answer
  split
  · simp
  · split
    · simp
    · split
      · simp
      · simp
    · simp

/-- An answer has exactly the `n` bytes asked for (R42), and drawing it disturbs nothing else. -/
theorem State.reply_spec (out : List Byte) (n : Nat) (s : State) :
    (s.reply out n).1.length = n ∧ s.Undisturbed (s.reply out n).2 ∧ (s.reply out n).2.chip = s.chip := by
  refine ⟨?_, ⟨rfl, rfl, rfl, rfl, rfl, rfl⟩, rfl⟩
  simp only [State.reply, List.length_append, State.drawBytes_length]
  cases s.chip with
  | none => simp
  | some c => have := c.answer_length_le s.params out n; simp only; omega

/-! ### The transport calls -/

/-- `BusWrite` (R41, R45): it succeeds as the next outcome says, and makes exactly its one call. -/
theorem State.busWrite_spec (frame : List Byte) (s : State) :
    (s.busWrite frame).1 = s.draws.okAt 0 ∧
      s.Called (s.busWrite frame).2
        { kind := .write, out := frame, n := 0, result := if s.draws.okAt 0 then .ok else .err } := by
  have t := s.tick_undisturbed
  have e : s.tick.draws.okAt 0 = s.draws.okAt 0 := congrFun t.okAt 0
  have w := s.tick.drawOk.2.chipWrite_undisturbed s.tick.drawOk.1 frame
  have g : (s.tick.drawOk.2.chipWrite (s.draws.okAt 0) frame).history = s.history := e ▸ w.history.trans t.history
  refine ⟨e, ⟨w.regs.trans t.regs, w.params.trans t.params, ?_, w.inputs.trans t.inputs, fun k => ?_,
    w.ram.trans t.ram⟩⟩
  · simp only [State.busWrite, State.record_history, g, State.drawOk_fst, e]
  · simp only [State.busWrite, State.record_draws, w.okAt, State.drawOk_draws, Draws.dropOk_okAt, t.okAt]

/-- `BusTransfer` that succeeds (R42, R45): exactly `n` bytes, recorded with its one call. -/
theorem State.busTransfer_ok (out : List Byte) (n : Nat) (s : State) (h : s.draws.okAt 0 = true) :
    ∃ bytes : List Byte, bytes.length = n ∧ (s.busTransfer out n).1 = some bytes ∧
      s.Called (s.busTransfer out n).2 { kind := .transfer, out := out, n := n, result := .okIn bytes } := by
  have t := s.tick_undisturbed
  have e : s.tick.drawOk.1 = true := by simp [t.okAt, h]
  obtain ⟨l, u, -⟩ := s.tick.drawOk.2.reply_spec out n
  refine ⟨(s.tick.drawOk.2.reply out n).1, l, ?_, ?_⟩
  · simp [State.busTransfer, t.okAt, h]
  · simp only [State.busTransfer, e, if_true]
    refine ⟨u.regs.trans t.regs, u.params.trans t.params, ?_, u.inputs.trans t.inputs, fun k => ?_,
      u.ram.trans t.ram⟩
    · simp only [State.record_history, u.history, State.drawOk_history, t.history]
    · simp only [State.record_draws, u.okAt, State.drawOk_draws, Draws.dropOk_okAt, t.okAt]

/-- `BusTransfer` that fails (R42): no byte is taken, and the call is recorded. -/
theorem State.busTransfer_err (out : List Byte) (n : Nat) (s : State) (h : s.draws.okAt 0 = false) :
    (s.busTransfer out n).1 = none ∧
      s.Called (s.busTransfer out n).2 { kind := .transfer, out := out, n := n, result := .err } := by
  have t := s.tick_undisturbed
  have e : s.tick.drawOk.1 = false := by simp [t.okAt, h]
  simp only [State.busTransfer, e]
  refine ⟨rfl, ⟨t.regs, t.params, ?_, t.inputs, fun k => ?_, t.ram⟩⟩
  · simp [t.history]
  · simp [t.okAt]

/-- A successful transfer hands over exactly the bytes asked for (R42). -/
theorem State.busTransfer_length (out : List Byte) (n : Nat) (s : State) (bytes : List Byte)
    (h : (s.busTransfer out n).1 = some bytes) : bytes.length = n := by
  cases o : s.draws.okAt 0 with
  | false => rw [(s.busTransfer_err out n o).1] at h; cases h
  | true =>
    obtain ⟨b, l, e, -⟩ := s.busTransfer_ok out n o
    rw [e] at h
    exact Option.some.inj h ▸ l

/-- `WrSeconds` (R133): one write of the SECONDS frame. -/
theorem State.wrSeconds_spec (v : Nat) (s : State) :
    (s.wrSeconds v).1 = s.draws.okAt 0 ∧
      s.Called (s.wrSeconds v).2
        { kind := .write, out := [s.addr .seconds false, bitRev (s.bcdEnc v).1], n := 0,
          result := if s.draws.okAt 0 then .ok else .err } := by
  have u := s.bcdEnc_undisturbed v
  obtain ⟨a, b⟩ := (s.bcdEnc v).2.busWrite_spec [s.addr .seconds false, bitRev (s.bcdEnc v).1]
  rw [u.okAt] at a b
  exact ⟨a, u.called b⟩

/-- `RdSecondsRaw` that succeeds (R132): the one byte received. -/
theorem State.rdSecondsRaw_ok (s : State) (h : s.draws.okAt 0 = true) :
    ∃ b : Byte, s.rdSecondsRaw.1 = some b ∧
      s.Called s.rdSecondsRaw.2
        { kind := .transfer, out := [s.addr .seconds true], n := 1, result := .okIn [b] } := by
  obtain ⟨bytes, l, e, c⟩ := s.busTransfer_ok [s.addr .seconds true] 1 h
  obtain ⟨b, rfl⟩ := List.length_eq_one_iff.1 l
  exact ⟨b, by simp [State.rdSecondsRaw, e, byteAt], c⟩

/-- `RdSecondsRaw` that fails (R132). -/
theorem State.rdSecondsRaw_err (s : State) (h : s.draws.okAt 0 = false) :
    s.rdSecondsRaw.1 = none ∧
      s.Called s.rdSecondsRaw.2
        { kind := .transfer, out := [s.addr .seconds true], n := 1, result := .err } := by
  obtain ⟨e, c⟩ := s.busTransfer_err [s.addr .seconds true] 1 h
  exact ⟨by simp [State.rdSecondsRaw, e], c⟩

/-! ### Taking an error, and the checks before a bus command -/

/-- The one error entry (R168): only `ERR` and `FAULT` are written, and `FAULT` is sticky (R23). -/
theorem State.raise_spec (e : ErrCode) (s : State) :
    (s.raise e).regs.err = e ∧ (s.raise e).regs.fault = (s.regs.fault || e.isFault) ∧
      (s.raise e).regs.results = s.regs.results ∧ (s.raise e).regs.initState = s.regs.initState :=
  ⟨rfl, rfl, rfl, rfl⟩

theorem State.requireReady_uninit (body : State → Host.Outcome State Fault Refusal) (s : State)
    (h : s.regs.initState = .uninit) : s.requireReady body = .next (s.raise .notInitialised) := by
  simp [State.requireReady, h]

theorem State.requireReady_ready (body : State → Host.Outcome State Fault Refusal) (s : State)
    (h : s.regs.initState = .ready) : s.requireReady body = body s := by
  simp [State.requireReady, h]

theorem State.endWrite_ok {r : Bool × State} (h : r.1 = true) : State.endWrite r = r.2.complete := by
  simp [State.endWrite, h]

theorem State.endWrite_err {r : Bool × State} (h : r.1 = false) : State.endWrite r = r.2.raise .transportError := by
  simp [State.endWrite, h]

end Sys2Proof.Machine
end

