-- ==== Sys2Proof/Laws/Commands.lean ====
section
/-! SUPPORT. The meanings as their cases, one equation per path: what each command's body is once the outcome of its
transport call is known. Proofs cite these equations and the specifications of Laws/Ops.lean instead of unfolding. -/

namespace Sys2Proof.Machine

/-! ### INIT -/

/-- The frame of step 1 (F_WP, R78). -/
def wpFrame (s : State) : List Byte := [s.addr .writeProtect false, 0x00]

theorem initBody_of_ok (s : State) (h : (s.busWrite (wpFrame s)).1 = true) :
    initBody s = initStep2 (s.busWrite (wpFrame s)).2 := by
  unfold initBody
  exact if_pos h

theorem initBody_of_err (s : State) (h : (s.busWrite (wpFrame s)).1 = false) :
    initBody s = (s.busWrite (wpFrame s)).2.raise .transportError := by
  unfold initBody
  exact if_neg (by simpa [wpFrame] using h)

theorem initStep2_of_some (s : State) (b : Byte) (h : s.rdSecondsRaw.1 = some b) :
    initStep2 s = initStep3 b s.rdSecondsRaw.2 := by
  simp only [initStep2, h]

theorem initStep2_of_none (s : State) (h : s.rdSecondsRaw.1 = none) :
    initStep2 s = s.rdSecondsRaw.2.raise .transportError := by
  simp only [initStep2, h]

/-- Bit 7 clear: no write (R124 (c)). -/
theorem initStep3_of_clear (b : Byte) (s : State) (h : b.getLsbD 7 = false) :
    initStep3 b s = s.becomeReady.complete := by
  unfold initStep3
  exact if_neg (by rw [h]; decide)

theorem initStep3_of_ok (b : Byte) (s : State) (h : b.getLsbD 7 = true) (w : (s.wrSeconds 0).1 = true) :
    initStep3 b s = (s.wrSeconds 0).2.becomeReady.complete := by
  unfold initStep3
  rw [if_pos h]
  exact if_pos w

theorem initStep3_of_err (b : Byte) (s : State) (h : b.getLsbD 7 = true) (w : (s.wrSeconds 0).1 = false) :
    initStep3 b s = (s.wrSeconds 0).2.raise .transportError := by
  unfold initStep3
  rw [if_pos h]
  exact if_neg (by rw [w]; decide)

/-- `WrSeconds(0)` sends the data byte 0x00 (R133). -/
theorem bitRev_bcdEnc_zero (s : State) : bitRev (s.bcdEnc 0).1 = 0x00 := by
  rw [State.bcdEnc_of_le (by decide)]
  exact (by decide : bitRev (bcdPack 0) = 0x00)

theorem exec_init_uninit (s : State) (h : s.regs.initState = .uninit) : exec .init s = .next (initBody s) := by
  simp only [exec, execInit, h]

theorem exec_init_ready (s : State) (h : s.regs.initState = .ready) :
    exec .init s = .next (s.raise .alreadyInitialised) := by
  simp only [exec, execInit, h]

/-! ### The commands that need INIT -/

theorem exec_getSeconds_ready (s : State) (h : s.regs.initState = .ready) :
    exec .getSeconds s = .next (getSecondsBody s) := by
  simp only [exec, execGetSeconds, State.requireReady_ready _ s h]

theorem exec_setSeconds_ready (v : Byte) (s : State) (h : s.regs.initState = .ready) :
    exec (.setSeconds v) s = .next (State.endWrite (s.wrSeconds v.toNat)) := by
  simp only [exec, execSetSeconds, State.requireReady_ready _ s h]

theorem exec_getClock_ready (s : State) (h : s.regs.initState = .ready) :
    exec .getClock s = .next (getClockBody s) := by
  simp only [exec, execGetClock, State.requireReady_ready _ s h]

theorem exec_getCalClock_ready (s : State) (h : s.regs.initState = .ready) :
    exec .getCalClock s = .next (getCalClockBody s) := by
  simp only [exec, execGetCalClock, State.requireReady_ready _ s h]

theorem exec_setCalClock_ready (p : Ports) (s : State) (h : s.regs.initState = .ready) (r : s.burstHitsRam = false) :
    exec (.setCalClock p) s = .next (State.endWrite ((s.calFrame p).2.busWrite (s.calFrame p).1)) := by
  refine (State.requireReady_ready _ s h).trans ?_
  unfold setCalClockBody
  exact if_neg (by rw [r]; decide)

theorem exec_setCalClock_ram (p : Ports) (s : State) (h : s.regs.initState = .ready) (r : s.burstHitsRam = true) :
    exec (.setCalClock p) s = .refused .ramCommand := by
  refine (State.requireReady_ready _ s h).trans ?_
  unfold setCalClockBody
  exact if_pos r

theorem getSecondsBody_of_some (s : State) (b : Byte) (h : s.rdSecondsRaw.1 = some b) :
    getSecondsBody s = (s.rdSecondsRaw.2.setResByte b).complete := by
  simp only [getSecondsBody, h]

theorem getSecondsBody_of_none (s : State) (h : s.rdSecondsRaw.1 = none) :
    getSecondsBody s = s.rdSecondsRaw.2.raise .transportError := by
  simp only [getSecondsBody, h]

theorem getClockBody_of_some (s : State) (r : List Byte) (h : (s.busTransfer [s.addr .clockBurst true] 3).1 = some r) :
    getClockBody s = finishClock (clockBytes s.params r) (s.busTransfer [s.addr .clockBurst true] 3).2 := by
  simp only [getClockBody, h]

theorem getClockBody_of_none (s : State) (h : (s.busTransfer [s.addr .clockBurst true] 3).1 = none) :
    getClockBody s = (s.busTransfer [s.addr .clockBurst true] 3).2.raise .transportError := by
  simp only [getClockBody, h]

theorem getCalClockBody_of_some (s : State) (r : List Byte)
    (h : (s.busTransfer [s.addr .clockBurst true] 8).1 = some r) :
    getCalClockBody s = finishCalClock (calBytes r) (s.busTransfer [s.addr .clockBurst true] 8).2 := by
  simp only [getCalClockBody, h]

theorem getCalClockBody_of_none (s : State) (h : (s.busTransfer [s.addr .clockBurst true] 8).1 = none) :
    getCalClockBody s = (s.busTransfer [s.addr .clockBurst true] 8).2.raise .transportError := by
  simp only [getCalClockBody, h]

/-- The check of GET_CLOCK passes, or is off: the three fields are written. -/
theorem finishClock_of_accept (c : List Byte) (s : State) (h : s.params.decodeCheck = false ∨ c.all bcdValid = true) :
    finishClock c s =
      (s.setResClk (bcdDec (byteAt c 0)) (bcdDec (byteAt c 1)) (bcdDec (byteAt c 2))).complete := by
  unfold finishClock
  exact if_neg (by rcases h with h | h <;> rw [h] <;> simp)

theorem finishClock_of_reject (c : List Byte) (s : State) (h : s.params.decodeCheck = true)
    (v : c.all bcdValid = false) : finishClock c s = s.raise .decodeError := by
  unfold finishClock
  exact if_pos (by rw [h, v]; rfl)

/-- The check of GET_CAL_CLOCK passes, or is off: the seven fields are written. -/
theorem finishCalClock_of_accept (c : List Byte) (s : State)
    (h : s.params.decodeCheck = false ∨ (checkedCalBytes s.params c).all bcdValid = true) :
    finishCalClock c s =
      ((s.setResClk (bcdDec (byteAt c 0)) (bcdDec (byteAt c 1)) (bcdDec (byteAt c 2))).setResCal
        (yearOf (bcdDec (byteAt c 6))) (bcdDec (byteAt c 4)) (bcdDec (byteAt c 3))
        (decodeDay s.params (byteAt c 5))).complete := by
  unfold finishCalClock
  exact if_neg (by rcases h with h | h <;> rw [h] <;> simp)

theorem finishCalClock_of_reject (c : List Byte) (s : State) (h : s.params.decodeCheck = true)
    (v : (checkedCalBytes s.params c).all bcdValid = false) : finishCalClock c s = s.raise .decodeError := by
  unfold finishCalClock
  exact if_pos (by rw [h, v]; rfl)

/-- Building the frame disturbs nothing but the bytes to come. -/
theorem State.calFrame_undisturbed (p : Ports) (s : State) :
    s.Undisturbed (s.calFrame p).2 ∧ (s.calFrame p).2.chip = s.chip := by
  simp only [State.calFrame]
  refine ⟨?_, ?_⟩
  · exact (((((((s.bcdYear_undisturbed _).trans (State.bcdEnc_undisturbed _ _)).trans
      (State.bcdEnc_undisturbed _ _)).trans (State.bcdEnc_undisturbed _ _)).trans
      (State.bcdEnc_undisturbed _ _)).trans (State.bcdEnc_undisturbed _ _)).trans (State.bcdEnc_undisturbed _ _))
  · simp only [State.bcdEnc_chip, State.bcdYear_chip]

/-- The nine bytes of the frame (R79): the command byte, the reversed field bytes, the trailing zero; a field in 0..99 is
its BCD byte, a year in 2000..2099 its two digits. -/
theorem State.calFrame_bytes (p : Ports) (s : State) : ∃ se mi ho da mo dw y : Byte,
    (s.calFrame p).1 = [s.burstWriteAddr, bitRev se, bitRev mi, bitRev ho, bitRev da, bitRev mo, bitRev dw, bitRev y,
      0x00] ∧
    (p.secIn.toNat ≤ 99 → se = bcdPack p.secIn.toNat) ∧ (p.minIn.toNat ≤ 99 → mi = bcdPack p.minIn.toNat) ∧
    (p.hourIn.toNat ≤ 99 → ho = bcdPack p.hourIn.toNat) ∧ (p.dateIn.toNat ≤ 99 → da = bcdPack p.dateIn.toNat) ∧
    (p.monthIn.toNat ≤ 99 → mo = bcdPack p.monthIn.toNat) ∧ (p.dayIn.toNat ≤ 99 → dw = bcdPack p.dayIn.toNat) ∧
    (2000 ≤ p.yearIn.toNat → p.yearIn.toNat ≤ 2099 → y = bcdPack (p.yearIn.toNat - 2000)) := by
  have enc : ∀ (v : Nat) (t : State), v ≤ 99 → (t.bcdEnc v).1 = bcdPack v := fun v t h => by
    rw [State.bcdEnc_of_le h]
  exact ⟨_, _, _, _, _, _, _, rfl, enc _ _, enc _ _, enc _ _, enc _ _, enc _ _, enc _ _,
    fun h h' => by rw [State.bcdYear_of_range h h']⟩

end Sys2Proof.Machine
end

