-- ==== Sys2Proof/Laws/Chip.lean ====
section
/-! SUPPORT. What the transport calls do to an attached reference chip, and what its answers and writes are for the
frames the block sends (R58 to R65). -/

namespace Sys2Proof.Machine

/-- On a still chip no time passes (R64). -/
theorem State.tick_of_stillChip (s : State) (c : Chip) (h : s.chip = some c) (st : s.still c = true) : s.tick = s := by
  rcases Bool.or_eq_true _ _ |>.mp st with hh | hf
  · exact s.tick_of_halted c h hh
  · exact s.tick_of_still (.inr (.inl (of_decide_eq_true hf)))

/-- A `BusWrite` on a chip that is `c` once time has passed: it is left as the frame's writes leave it, or, when the call
failed, with a draw in each register the frame leaves unspecified (R60 to R62, R64, R65, R190). -/
theorem State.busWrite_chip_of_tick (s : State) (c : Chip) (frame : List Byte) (h : s.tick.chip = some c) :
    (s.busWrite frame).2.chip = some (State.storeAll c
      (if s.draws.okAt 0 then c.writes s.params frame else (failedTargets s.params frame).map fun r => (r, none))
      s.tick.drawOk.2).1 := by
  have u := s.tick_undisturbed
  simp only [State.busWrite, State.record_chip, State.chipWrite, State.drawOk_chip, h, State.setChip_chip,
    State.drawOk_fst, State.drawOk_params, u.params, u.okAt]

/-- A transfer does nothing to the chip but let time pass before it (R63 to R65). -/
theorem State.busTransfer_chip_of_tick (s : State) (out : List Byte) (n : Nat) :
    (s.busTransfer out n).2.chip = s.tick.chip := by
  simp only [State.busTransfer]
  split
  · exact (s.tick.drawOk.2.reply_spec out n).2.2
  · rfl

/-- A `BusWrite` with no time passing: the chip is left as the frame's writes leave it, or, when the call failed, with a
draw in each register the frame leaves unspecified (R60 to R62, R65, R190). -/
theorem State.busWrite_chip (s : State) (c : Chip) (frame : List Byte) (h : s.chip = some c) (t : s.tick = s) :
    (s.busWrite frame).2.chip = some (State.storeAll c
      (if s.draws.okAt 0 then c.writes s.params frame else (failedTargets s.params frame).map fun r => (r, none))
      s.drawOk.2).1 := by
  have k := s.busWrite_chip_of_tick c frame (by rw [t, h])
  rwa [t] at k

/-- A frame that writes nothing and was sent leaves the chip as it was. -/
theorem State.busWrite_chip_of_no_writes (s : State) (c : Chip) (frame : List Byte) (h : s.chip = some c)
    (t : s.tick = s) (o : s.draws.okAt 0 = true) (w : c.writes s.params frame = []) :
    (s.busWrite frame).2.chip = some c := by
  rw [s.busWrite_chip c frame h t, o, if_pos rfl, w]
  rfl

/-- What a failed SECONDS write leaves unspecified (R65, I4). -/
theorem failedTargets_seconds (p : Params) (w : p.wf) (d : Byte) :
    failedTargets p [makeAddr p.nat .seconds false, d] = [.seconds] := by
  simp [failedTargets, chipCommand_makeAddr p w, chipRegOf]

/-- What a failed WRITE_PROTECT write leaves unspecified (R65, I4). -/
theorem failedTargets_writeProtect (p : Params) (w : p.wf) (d : Byte) :
    failedTargets p [makeAddr p.nat .writeProtect false, d] = [.writeProtect] := by
  simp [failedTargets, chipCommand_makeAddr p w, chipRegOf]

/-- What a failed SET_CAL_CLOCK leaves unspecified: all eight burst registers, whatever the command byte (R190, I3). -/
theorem failedTargets_calFrame (s : State) (p : Ports) : failedTargets s.params (s.calFrame p).1 = burstOrder := rfl

/-- A read has no side effect on the chip (R63, R65). -/
theorem State.busTransfer_chip (s : State) (out : List Byte) (n : Nat) (t : s.tick = s) :
    (s.busTransfer out n).2.chip = s.chip := by
  rw [s.busTransfer_chip_of_tick, t]

/-- A transfer whose bytes the chip all fixes returns them (R63). -/
theorem State.busTransfer_answer (s : State) (c : Chip) (out : List Byte) (n : Nat) (h : s.chip = some c)
    (t : s.tick = s) (o : s.draws.okAt 0 = true) (l : (c.answer s.params out n).length = n) :
    (s.busTransfer out n).1 = some (c.answer s.params out n) := by
  simp only [State.busTransfer, t, State.drawOk_fst, o, if_true, State.reply, State.drawOk_chip, h,
    State.drawOk_params, l, Nat.sub_self, State.drawBytes_fst, List.range_zero, List.map_nil, List.append_nil]

/-- The answer to a SECONDS read (R63). -/
theorem Chip.answer_seconds (p : Params) (w : p.wf) (c : Chip) :
    c.answer p [makeAddr p.nat .seconds true] 1 = [bitRev c.seconds] := by
  simp [Chip.answer, chipCommand_makeAddr p w, chipRegOf, Chip.get]

/-- The answer to a CLOCK_BURST read (R50, R63). -/
theorem Chip.answer_clockBurst (p : Params) (w : p.wf) (c : Chip) (n : Nat) :
    c.answer p [makeAddr p.nat .clockBurst true] n = (burstOrder.take n).map fun r => bitRev (c.get r) := by
  simp [Chip.answer, chipCommand_makeAddr p w]

/-- A SECONDS write (R60, R61). -/
theorem Chip.writes_seconds (p : Params) (w : p.wf) (c : Chip) (d : Byte) :
    c.writes p [makeAddr p.nat .seconds false, d] =
      if c.writeProtected p then [] else [(.seconds, some (bitRev d))] := by
  simp [Chip.writes, Chip.regWrites, chipCommand_makeAddr p w, chipRegOf]

/-- A WRITE_PROTECT write is always accepted (R61). -/
theorem Chip.writes_writeProtect (p : Params) (w : p.wf) (c : Chip) (d : Byte) :
    c.writes p [makeAddr p.nat .writeProtect false, d] = [(.writeProtect, some (bitRev d))] := by
  simp [Chip.writes, Chip.regWrites, chipCommand_makeAddr p w]

/-- A CLOCK_BURST write (R62). -/
theorem Chip.writes_clockBurst (p : Params) (c : Chip) (x : Byte) (data : List Byte)
    (h : chipCommand p x = .write .clockBurst) :
    c.writes p (x :: data) = if c.writeProtected p then [] else burstWrites data := by
  simp [Chip.writes, Chip.regWrites, h]

/-- A read command in a write frame writes nothing (R59). -/
theorem Chip.writes_mismatch (p : Params) (c : Chip) (x : Byte) (data : List Byte)
    (h : ∀ r, chipCommand p x ≠ .write r) : c.writes p (x :: data) = [] := by
  cases hx : chipCommand p x with
  | write r => exact absurd hx (h r)
  | read r => simp only [Chip.writes, hx]
  | unknown => simp only [Chip.writes, hx]

end Sys2Proof.Machine
end

