-- ==== Sys2Proof/Laws/Exec.lean ====
section
/-! SUPPORT. What a command can do, said once (`exec_spec`): the six ways its registers can end, the events it appends,
and what it never touches. Then the same for a step (`step_spec`). -/

namespace Sys2Proof.Machine

/-- How a command may leave the block's registers. -/
inductive CommandRegs (p : Params) (i : Instr) (r : Regs) : Regs → Prop where
  /-- It ended in an error (R168). -/
  | error (e : ErrCode) (ne : e ≠ .ok) (un : e = .notInitialised → r.initState = .uninit)
      (rd : e = .alreadyInitialised → r.initState = .ready) : CommandRegs p i r (r.raise e)
  /-- It succeeded and writes no result. -/
  | plain : CommandRegs p i r r.complete
  /-- INIT succeeded (R120). -/
  | ready (h : i = .init) (u : r.initState = .uninit) :
      CommandRegs p i r ({ r with initState := .ready } : Regs).complete
  /-- It wrote `RES_BYTE` (R26). -/
  | byte (v : Byte) (h : i.writesByte = true) : CommandRegs p i r ({ r with resByte := some v } : Regs).complete
  /-- GET_CLOCK wrote `RES_CLK` (R27). -/
  | clock (a b c : Byte) (h : i = .getClock) : CommandRegs p i r
      ({ r with resSec := some (bcdDec a), resMin := some (bcdDec b), resHour := some (bcdDec c) } : Regs).complete
  /-- GET_CAL_CLOCK wrote `RES_CLK` and `RES_CAL` (R28). -/
  | calendar (a b c y m d w : Byte) (h : i = .getCalClock) : CommandRegs p i r
      ({ r with
        resSec := some (bcdDec a), resMin := some (bcdDec b), resHour := some (bcdDec c),
        resYear := some (yearOf (bcdDec y)), resMonth := some (bcdDec m), resDate := some (bcdDec d),
        resDay := some (decodeDay p w) } : Regs).complete

/-- What a command does besides its registers: the events `es` it appended, all of them listed by R47, and the fields it
leaves alone. A command that moved `INIT_STATE` saw no call fail. -/
structure CommandRun (s t : State) (es : List Event) : Prop where
  params  : t.params = s.params
  inputs  : t.inputs = s.inputs
  ram     : t.chip.map Chip.ram = s.chip.map Chip.ram
  history : t.history = s.history ++ es
  few     : es.length ≤ 3
  listed  : ∀ e ∈ es, e.allowed s.params

theorem CommandRun.none {s t : State} (u : s.Undisturbed t) : CommandRun s t [] :=
  ⟨u.params, u.inputs, u.ram, by simp [u.history], by simp, by simp⟩

theorem CommandRun.one {s t : State} {e : Event} (c : s.Called t e) (a : e.allowed s.params) : CommandRun s t [e] :=
  ⟨c.params, c.inputs, c.ram, c.history, by simp, by simpa using a⟩

theorem CommandRun.append {s t u : State} {es fs : List Event} (a : CommandRun s t es) (b : CommandRun t u fs)
    (l : es.length + fs.length ≤ 3) : CommandRun s u (es ++ fs) :=
  ⟨b.params.trans a.params, b.inputs.trans a.inputs, b.ram.trans a.ram,
    by rw [b.history, a.history, List.append_assoc], by simpa using l, fun e h => by
      rcases List.mem_append.1 h with h | h
      · exact a.listed e h
      · exact a.params ▸ b.listed e h⟩

/-- Writing the block's registers afterwards changes nothing of a run. -/
theorem CommandRun.withRegs {s t : State} {es : List Event} (a : CommandRun s t es) (r : Regs) :
    CommandRun s { t with regs := r } es :=
  ⟨a.params, a.inputs, a.ram, a.history, a.few, a.listed⟩

/-! ### The frames of R78 are listed -/

theorem allowed_wpFrame (s : State) (ok : Bool) :
    Event.allowed s.params { kind := .write, out := wpFrame s, n := 0, result := if ok then .ok else .err } :=
  .inl ⟨rfl, rfl, by cases ok <;> rfl, .inl rfl⟩

theorem allowed_secWrite (s : State) (d : Byte) (ok : Bool) :
    Event.allowed s.params
      { kind := .write, out := [s.addr .seconds false, d], n := 0, result := if ok then .ok else .err } :=
  .inl ⟨rfl, rfl, by cases ok <;> rfl, .inr (.inl ⟨d, rfl⟩)⟩

theorem allowed_secRead (s : State) (r : CallResult) (h : r.isTransferResult 1 = true) :
    Event.allowed s.params { kind := .transfer, out := [s.addr .seconds true], n := 1, result := r } :=
  .inr ⟨rfl, h, .inl ⟨rfl, rfl⟩⟩

theorem allowed_burstRead (s : State) (n : Nat) (hn : n = 3 ∨ n = 8) (r : CallResult)
    (h : r.isTransferResult n = true) :
    Event.allowed s.params { kind := .transfer, out := [s.addr .clockBurst true], n := n, result := r } :=
  .inr ⟨rfl, h, .inr ⟨rfl, hn⟩⟩

theorem allowed_calFrame (p : Ports) (s : State) (ok : Bool) :
    Event.allowed s.params
      { kind := .write, out := (s.calFrame p).1, n := 0, result := if ok then .ok else .err } := by
  obtain ⟨se, mi, ho, da, mo, dw, y, hf, -⟩ := s.calFrame_bytes p
  refine .inl ⟨rfl, rfl, by cases ok <;> rfl, .inr (.inr ⟨[bitRev se, bitRev mi, bitRev ho, bitRev da, bitRev mo,
    bitRev dw, bitRev y], rfl, ?_⟩)⟩
  exact hf

/-! ### The calls as runs -/

theorem busWrite_wp_run (s : State) : ∃ e, CommandRun s (s.busWrite (wpFrame s)).2 [e] ∧
    ((s.busWrite (wpFrame s)).1 = true → e.result ≠ .err) :=
  ⟨_, .one (s.busWrite_spec _).2 (allowed_wpFrame s _), fun h => by
    simp [← (s.busWrite_spec (wpFrame s)).1, h]⟩

theorem wrSeconds_run (v : Nat) (s : State) : ∃ e, CommandRun s (s.wrSeconds v).2 [e] ∧
    ((s.wrSeconds v).1 = true → e.result ≠ .err) :=
  ⟨_, .one (s.wrSeconds_spec v).2 (allowed_secWrite s _ _), fun h => by
    simp [← (s.wrSeconds_spec v).1, h]⟩

theorem rdSecondsRaw_run (s : State) : ∃ e, CommandRun s s.rdSecondsRaw.2 [e] ∧
    (∀ b, s.rdSecondsRaw.1 = some b → e.result ≠ .err) ∧ s.rdSecondsRaw.2.regs = s.regs := by
  cases o : s.draws.okAt 0 with
  | true =>
    obtain ⟨b, -, c⟩ := s.rdSecondsRaw_ok o
    exact ⟨_, .one c (allowed_secRead s _ rfl), fun _ _ => by simp, c.regs⟩
  | false =>
    obtain ⟨n, c⟩ := s.rdSecondsRaw_err o
    exact ⟨_, .one c (allowed_secRead s _ rfl), fun b h => by simp [n] at h, c.regs⟩

theorem burstRead_run (s : State) (n : Nat) (hn : n = 3 ∨ n = 8) :
    ∃ e, CommandRun s (s.busTransfer [s.addr .clockBurst true] n).2 [e] ∧
      (s.busTransfer [s.addr .clockBurst true] n).2.regs = s.regs := by
  cases o : s.draws.okAt 0 with
  | true =>
    obtain ⟨b, l, -, c⟩ := s.busTransfer_ok [s.addr .clockBurst true] n o
    exact ⟨_, .one c (allowed_burstRead s n hn _ (by simp [CallResult.isTransferResult, l])), c.regs⟩
  | false =>
    obtain ⟨-, c⟩ := s.busTransfer_err [s.addr .clockBurst true] n o
    exact ⟨_, .one c (allowed_burstRead s n hn _ rfl), c.regs⟩

/-! ### The bodies -/

/-- INIT's body: an error, or READY with no failed call (R120, R121). -/
theorem initBody_spec (s : State) :
    ∃ es, CommandRun s (initBody s) es ∧
      ((initBody s).regs = s.regs.raise .transportError ∨
       ((initBody s).regs = ({ s.regs with initState := .ready } : Regs).complete ∧ ∀ e ∈ es, e.result ≠ .err)) := by
  obtain ⟨e1, r1, g1⟩ := busWrite_wp_run s
  have q1 := (s.busWrite_spec (wpFrame s)).2.regs
  cases w : (s.busWrite (wpFrame s)).1 with
  | false => rw [initBody_of_err s w]; exact ⟨_, r1.withRegs _, .inl (by simp [q1])⟩
  | true =>
    rw [initBody_of_ok s w]
    replace g1 := g1 w
    generalize (s.busWrite (wpFrame s)).2 = s1 at r1 q1 ⊢
    obtain ⟨e2, r2, g2, q2⟩ := rdSecondsRaw_run s1
    cases r : s1.rdSecondsRaw.1 with
    | none =>
      rw [initStep2_of_none s1 r]
      exact ⟨_, (r1.append r2 (by simp)).withRegs _, .inl (by simp [q2, q1])⟩
    | some b =>
      rw [initStep2_of_some s1 b r]
      replace g2 := g2 b r
      generalize s1.rdSecondsRaw.2 = s2 at r2 q2 ⊢
      obtain ⟨e3, r3, g3⟩ := wrSeconds_run 0 s2
      have q3 := (s2.wrSeconds_spec 0).2.regs
      cases hb : b.getLsbD 7 with
      | false =>
        rw [initStep3_of_clear b s2 hb]
        refine ⟨_, (r1.append r2 (by simp)).withRegs _, .inr ⟨by simp [q2, q1], ?_⟩⟩
        simp [g1, g2]
      | true =>
        have r' := (r1.append r2 (by simp)).append r3 (by simp)
        cases w3 : (s2.wrSeconds 0).1 with
        | false => rw [initStep3_of_err b s2 hb w3]; exact ⟨_, r'.withRegs _, .inl (by simp [q3, q2, q1])⟩
        | true =>
          rw [initStep3_of_ok b s2 hb w3]
          refine ⟨_, r'.withRegs _, .inr ⟨by simp [q3, q2, q1], ?_⟩⟩
          simp [g1, g2, g3 w3]

/-- The end of a command whose last act was a write. -/
theorem endWrite_spec (p : Params) (i : Instr) (s : State) (r : Bool × State) (q : r.2.regs = s.regs)
    {es : List Event} (run : CommandRun s r.2 es) :
    CommandRun s (State.endWrite r) es ∧ CommandRegs p i s.regs (State.endWrite r).regs := by
  cases h : r.1 with
  | true =>
    rw [State.endWrite_ok h]
    exact ⟨run.withRegs _, by rw [State.complete_regs, q]; exact .plain⟩
  | false =>
    rw [State.endWrite_err h]
    exact ⟨run.withRegs _, by
      rw [State.raise_regs, q]; exact .error _ (by decide) (fun h => by cases h) (fun h => by cases h)⟩

theorem getClockBody_spec (s : State) : ∃ es, CommandRun s (getClockBody s) es ∧
    CommandRegs s.params .getClock s.regs (getClockBody s).regs := by
  obtain ⟨e, run, q⟩ := burstRead_run s 3 (.inl rfl)
  cases h : (s.busTransfer [s.addr .clockBurst true] 3).1 with
  | none =>
    rw [getClockBody_of_none s h]
    exact ⟨_, run.withRegs _, by
      rw [State.raise_regs, q]; exact .error _ (by decide) (fun h => by cases h) (fun h => by cases h)⟩
  | some r =>
    rw [getClockBody_of_some s r h]
    generalize (s.busTransfer [s.addr .clockBurst true] 3).2 = t at run q ⊢
    generalize clockBytes s.params r = c
    by_cases v : t.params.decodeCheck = true ∧ c.all bcdValid = false
    · rw [finishClock_of_reject c t v.1 v.2]
      exact ⟨_, run.withRegs _, by
        rw [State.raise_regs, q]; exact .error _ (by decide) (fun h => by cases h) (fun h => by cases h)⟩
    · rw [finishClock_of_accept c t (by
        cases hd : t.params.decodeCheck <;> cases hv : c.all bcdValid <;> simp_all)]
      refine ⟨_, run.withRegs _, ?_⟩
      rw [State.complete_regs, State.setResClk_regs, q]
      exact .clock _ _ _ rfl

theorem getCalClockBody_spec (s : State) : ∃ es, CommandRun s (getCalClockBody s) es ∧
    CommandRegs s.params .getCalClock s.regs (getCalClockBody s).regs := by
  obtain ⟨e, run, q⟩ := burstRead_run s 8 (.inr rfl)
  cases h : (s.busTransfer [s.addr .clockBurst true] 8).1 with
  | none =>
    rw [getCalClockBody_of_none s h]
    exact ⟨_, run.withRegs _, by
      rw [State.raise_regs, q]; exact .error _ (by decide) (fun h => by cases h) (fun h => by cases h)⟩
  | some r =>
    rw [getCalClockBody_of_some s r h]
    generalize (s.busTransfer [s.addr .clockBurst true] 8).2 = t at run q ⊢
    generalize calBytes r = c
    by_cases v : t.params.decodeCheck = true ∧ (checkedCalBytes t.params c).all bcdValid = false
    · rw [finishCalClock_of_reject c t v.1 v.2]
      exact ⟨_, run.withRegs _, by
        rw [State.raise_regs, q]; exact .error _ (by decide) (fun h => by cases h) (fun h => by cases h)⟩
    · rw [finishCalClock_of_accept c t (by
        cases hd : t.params.decodeCheck <;> cases hv : (checkedCalBytes t.params c).all bcdValid <;> simp_all)]
      refine ⟨_, run.withRegs _, ?_⟩
      rw [State.complete_regs, State.setResCal_regs, State.setResClk_regs, q, run.params]
      exact .calendar _ _ _ _ _ _ _ rfl

theorem getSecondsBody_spec (s : State) : ∃ es, CommandRun s (getSecondsBody s) es ∧
    CommandRegs s.params .getSeconds s.regs (getSecondsBody s).regs := by
  obtain ⟨e, run, -, q⟩ := rdSecondsRaw_run s
  cases h : s.rdSecondsRaw.1 with
  | none =>
    rw [getSecondsBody_of_none s h]
    exact ⟨_, run.withRegs _, by
      rw [State.raise_regs, q]; exact .error _ (by decide) (fun h => by cases h) (fun h => by cases h)⟩
  | some b =>
    rw [getSecondsBody_of_some s b h]
    refine ⟨_, run.withRegs _, ?_⟩
    rw [State.complete_regs, State.setResByte_regs, q]
    exact .byte b rfl

/-- Before INIT a bus command only faults (R163). -/
theorem requireReady_spec (i : Instr) (body : State → Host.Outcome State Fault Refusal) (s t : State)
    (h : s.requireReady body = .next t)
    (b : body s = .next t → ∃ es, CommandRun s t es ∧ CommandRegs s.params i s.regs t.regs) :
    ∃ es, CommandRun s t es ∧ CommandRegs s.params i s.regs t.regs := by
  cases hi : s.regs.initState with
  | ready => exact b (State.requireReady_ready body s hi ▸ h)
  | uninit =>
    rw [State.requireReady_uninit body s hi] at h
    cases h
    exact ⟨[], (CommandRun.none (.refl s)).withRegs _,
      .error _ (by decide) (fun _ => hi) (fun h => by cases h)⟩

/-- What a command that completes can do. -/
theorem exec_spec (i : Instr) (s t : State) (h : exec i s = .next t) :
    ∃ es, CommandRun s t es ∧ CommandRegs s.params i s.regs t.regs ∧
      (t.regs.initState ≠ s.regs.initState → ∀ e ∈ es, e.result ≠ .err) := by
  have keep : ∀ {j : Instr}, j ≠ .init → (∃ es, CommandRun s t es ∧ CommandRegs s.params j s.regs t.regs) →
      ∃ es, CommandRun s t es ∧ CommandRegs s.params j s.regs t.regs ∧
        (t.regs.initState ≠ s.regs.initState → ∀ e ∈ es, e.result ≠ .err) := by
    rintro j nj ⟨es, a, b⟩
    refine ⟨es, a, b, fun hne => absurd ?_ hne⟩
    generalize t.regs = r at b ⊢
    cases b <;> first | rfl | contradiction
  cases i with
  | bcdEnc v =>
    cases h
    refine keep (by simp) ⟨[], (CommandRun.none (s.bcdEnc_undisturbed v.toNat)).withRegs _, ?_⟩
    rw [State.complete_regs, State.setResByte_regs, (s.bcdEnc_undisturbed v.toNat).regs]
    exact .byte _ rfl
  | bcdDec b =>
    simp only [exec, execBcdDec] at h
    split at h
    · cases h
      exact keep (by simp) ⟨[], (CommandRun.none (.refl s)).withRegs _,
        .error _ (by decide) (fun h => by cases h) (fun h => by cases h)⟩
    · cases h
      exact keep (by simp) ⟨[], (CommandRun.none (.refl s)).withRegs _, .byte _ rfl⟩
  | bitRev b => cases h; exact keep (by simp) ⟨[], (CommandRun.none (.refl s)).withRegs _, .byte _ rfl⟩
  | makeAddr rd r => cases h; exact keep (by simp) ⟨[], (CommandRun.none (.refl s)).withRegs _, .byte _ rfl⟩
  | init =>
    cases hi : s.regs.initState with
    | ready =>
      rw [exec_init_ready s hi] at h
      cases h
      exact ⟨[], (CommandRun.none (.refl s)).withRegs _,
        .error _ (by decide) (fun h => by cases h) (fun _ => hi), fun _ => by simp⟩
    | uninit =>
      rw [exec_init_uninit s hi] at h
      cases h
      obtain ⟨es, run, q | ⟨q, g⟩⟩ := initBody_spec s
      · rw [q]
        exact ⟨es, run, .error _ (by decide) (fun h => by cases h) (fun h => by cases h), fun h => absurd hi h⟩
      · rw [q]
        exact ⟨es, run, .ready rfl hi, fun _ => g⟩
  | getSeconds =>
    exact keep (by simp) (requireReady_spec _ (fun s => .next (getSecondsBody s)) s t h fun h => by cases h; exact getSecondsBody_spec s)
  | setSeconds v =>
    refine keep (by simp)
      (requireReady_spec _ (fun s => .next (State.endWrite (s.wrSeconds v.toNat))) s t h fun h => ?_)
    cases h
    obtain ⟨e, run, -⟩ := wrSeconds_run v.toNat s
    exact ⟨_, endWrite_spec _ _ s _ (s.wrSeconds_spec v.toNat).2.regs run⟩
  | getClock =>
    exact keep (by simp) (requireReady_spec _ (fun s => .next (getClockBody s)) s t h fun h => by cases h; exact getClockBody_spec s)
  | getCalClock =>
    exact keep (by simp) (requireReady_spec _ (fun s => .next (getCalClockBody s)) s t h fun h => by cases h; exact getCalClockBody_spec s)
  | setCalClock p =>
    refine keep (by simp) (requireReady_spec _ (setCalClockBody p) s t h fun h => ?_)
    unfold setCalClockBody at h
    split at h
    · cases h
    · cases h
      have c := (s.calFrame_undisturbed p).1.called ((s.calFrame p).2.busWrite_spec (s.calFrame p).1).2
      exact ⟨_, endWrite_spec _ _ s _ c.regs (.one c (allowed_calFrame p s _))⟩

/-! ### The RAM (log entry 9) -/

/-- No command reaches the RAM of the attached chip, so its canonical form is kept (R49). -/
theorem exec_ramWf (i : Instr) (s t : State) (h : exec i s = .next t) (p : Params)
    (w : ∀ c, s.chip = some c → c.ramWf p = true) : ∀ c, t.chip = some c → c.ramWf p = true := by
  obtain ⟨es, run, -⟩ := exec_spec i s t h
  intro c hc
  have hr := run.ram
  rw [hc] at hr
  cases hs : s.chip with
  | none => simp [hs] at hr
  | some c0 =>
    have := w c0 hs
    simp only [hs, Option.map_some, Option.some.injEq] at hr
    simpa [Chip.ramWf, hr] using this

/-- A chip at power-up lists no RAM byte. -/
theorem State.attachChip_ram (s : State) : s.attachChip.chip.map Chip.ram = some [] := rfl

/-- No chip is attached at reset, so no RAM byte is listed there. -/
theorem reset_ram : State.reset.chip.map Chip.ram = none := rfl

/-- What a step can do: wait, perform a command, take an illegal word, reset, or serve a host read. -/
theorem step_spec (s t : State) (h : step s = .next t) :
    s.params.wf = true ∧
    ((s.inputs = [] ∧ t = s) ∨
     (∃ c i rest, s.inputs = .command c :: rest ∧ decode c = .ok i ∧ exec i { s with inputs := rest } = .next t) ∨
     (∃ c e rest, s.inputs = .command c :: rest ∧ decode c = .error e ∧ t = State.illegal { s with inputs := rest }) ∨
     (∃ rest, s.inputs = .reset :: rest ∧ t = State.blockReset { s with inputs := rest }) ∨
     (∃ r rest, s.inputs = .read r :: rest ∧ t = { s with inputs := rest })) := by
  unfold step at h
  split at h
  · rename_i hw
    refine ⟨hw, ?_⟩
    unfold serveNext at h
    split at h
    · rename_i he
      cases h
      exact .inl ⟨he, rfl⟩
    · rename_i m rest hm
      cases m with
      | command c =>
        simp only [serve, issue] at h
        split at h
        · rename_i i hd
          exact .inr (.inl ⟨c, i, rest, hm, hd, h⟩)
        · rename_i e hd
          cases h
          exact .inr (.inr (.inl ⟨c, e, rest, hm, hd, rfl⟩))
      | reset => cases h; exact .inr (.inr (.inr (.inl ⟨rest, hm, rfl⟩)))
      | read r =>
        simp only [serve, State.hostRead] at h
        split at h
        · cases h; exact .inr (.inr (.inr (.inr ⟨r, rest, hm, rfl⟩)))
        · cases h
  · cases h

end Sys2Proof.Machine
end

