-- ==== Sys2Proof/Laws/PerInstr.lean ====
section
/-! SUPPORT. A statement about every command as syntax, one lemma per constructor: the word it is encoded with is one
that no point of R73 calls illegal, carries the opcode of its row of R71, and names the row in the syntax of R84. -/

namespace Sys2Proof

/-- The opcode of each command, `OPC` of R71. -/
def Instr.opcode : Instr → BitVec 4
  | .bcdEnc _ => 0x1
  | .bcdDec _ => 0x2
  | .bitRev _ => 0x3
  | .makeAddr _ _ => 0x4
  | .init => 0x5
  | .getSeconds => 0x6
  | .setSeconds _ => 0x7
  | .getClock => 0x8
  | .getCalClock => 0x9
  | .setCalClock _ => 0xA

end Sys2Proof

namespace Sys2Proof.Laws.WordLegal

/-- The word of an instruction is legal (R73) and has the opcode of its row (R71). -/
def Statement (i : Instr) : Prop :=
  Half.legal i.word = true ∧ Half.opc i.word = i.opcode

theorem wordB_legal (opc : BitVec 4) (h : opc = 1 ∨ opc = 2 ∨ opc = 3 ∨ opc = 7) (v : Byte) :
    Half.legal (wordB opc v) = true ∧ Half.opc (wordB opc v) = opc := by
  rcases h with rfl | rfl | rfl | rfl <;> revert v <;> decide

theorem bcdEnc (imm8 : Byte) : Statement (.bcdEnc imm8) := wordB_legal 1 (by decide) imm8
theorem bcdDec (imm8 : Byte) : Statement (.bcdDec imm8) := wordB_legal 2 (by decide) imm8
theorem bitRev (imm8 : Byte) : Statement (.bitRev imm8) := wordB_legal 3 (by decide) imm8
theorem setSeconds (imm8 : Byte) : Statement (.setSeconds imm8) := wordB_legal 7 (by decide) imm8
theorem makeAddr (read : Bool) (reg : RegId) : Statement (.makeAddr read reg) := by
  cases read <;> cases reg <;> exact ⟨by decide, by decide⟩
theorem init : Statement .init := ⟨by decide, by decide⟩
theorem getSeconds : Statement .getSeconds := ⟨by decide, by decide⟩
theorem getClock : Statement .getClock := ⟨by decide, by decide⟩
theorem getCalClock : Statement .getCalClock := ⟨by decide, by decide⟩
theorem setCalClock (ports : Ports) : Statement (.setCalClock ports) :=
  show Half.legal (wordZ 0xA) = true ∧ Half.opc (wordZ 0xA) = 0xA from by decide

end Sys2Proof.Laws.WordLegal
end

