-- ==== Sys2Proof/Tests/Slice0.lean ====
section
/-! SUPPORT. Tests of the model, each on one step of a small state, with the values of spec/95_test_vectors.md (the row is
named in each comment) or of the rule's own examples; and, for every statement with hypotheses, a named witness that meets
them all together, at the boundary values of its clauses. -/

namespace Sys2Proof.Tests

open Sys2Proof.Machine

/-! ### Small states -/

/-- A block in READY whose next calls and bytes are answered as given. -/
def ready (oks : List Bool) (bytes : List Byte) : State :=
  { State.reset with
    regs := { Regs.reset with initState := .ready }, draws := { Draws.start with oks := oks, bytes := bytes } }

/-- A block after reset whose next calls and bytes are answered as given. -/
def uninit (oks : List Bool) (bytes : List Byte) : State :=
  { State.reset with draws := { Draws.start with oks := oks, bytes := bytes } }

/-- What `f` reads after a step that goes on. -/
def after {α : Type} (o : Host.Outcome State Fault Refusal) (f : State → α) : Option α :=
  match o with
  | .next t => some (f t)
  | .fault _ => none
  | .refused _ => none

/-- One step on a command word. -/
def run (s : State) (w : Nat) : Host.Outcome State Fault Refusal := step (s.withFetchWord 16 w)

/-- `INIT_STATE / FAULT / ERR`. -/
def outcome (s : State) : InitState × Bool × ErrCode := (s.regs.initState, s.regs.fault, s.regs.err)

/-- The ports of E5: 2024-03-15, day 5, 13:45:00. -/
def e5 : Ports :=
  { yearIn := 2024, monthIn := 3, dateIn := 15, dayIn := 5, hourIn := 13, minIn := 45, secIn := 0 }

/-- One step on SET_CAL_CLOCK with ports. -/
def runCal (s : State) (p : Ports) : Host.Outcome State Fault Refusal :=
  step { s with inputs := [.command { cmd := 0xA000, ports := p }] }

/-- A running chip at 08:30:59 on 2023-01-01, write-protected (P1). -/
def chipP1 : Chip :=
  { seconds := 0x59, minutes := 0x30, hours := 0x08, date := 0x01, month := 0x01, day := 0x01, year := 0x23,
    writeProtect := 0x80, ram := [] }

/-- The same with write-protect clear. -/
def chipOpen : Chip := { chipP1 with writeProtect := 0x00 }

/-- `P_BURST_WRITE_ADDR_REVERSED = true`. -/
def reversedAddr (s : State) : State := { s with params := { s.params with burstWriteAddrReversed := true } }

/-- `P_DECODE_CHECK = true`. -/
def checked (s : State) : State := { s with params := { s.params with decodeCheck := true } }

/-! ### Decoding: words written out bit by bit from R71 and R72 -/

/-- 0001 0000 0010 1101 (2.1). -/
theorem test_decode_bcdEnc : decodeTableWord 16 0b0001000000101101 = some (.bcdEnc 45) := by decide
/-- 0010 0000 0101 1001 (2.1). -/
theorem test_decode_bcdDec : decodeTableWord 16 0b0010000001011001 = some (.bcdDec 0x59) := by decide
/-- 0011 0000 0100 0101 (2.2). -/
theorem test_decode_bitRev : decodeTableWord 16 0b0011000001000101 = some (.bitRev 0x45) := by decide
/-- 0100 0001 0000 1000: R is bit 8, REG bits 3:0 (2.2). -/
theorem test_decode_makeAddr : decodeTableWord 16 0b0100000100001000 = some (.makeAddr true .clockBurst) := by decide
/-- 0101 0000 0000 0000 (R120). -/
theorem test_decode_init : decodeTableWord 16 0b0101000000000000 = some .init := by decide
/-- 0110 0000 0000 0000 (R130). -/
theorem test_decode_getSeconds : decodeTableWord 16 0b0110000000000000 = some .getSeconds := by decide
/-- 0111 0000 0010 1101 (2.4). -/
theorem test_decode_setSeconds : decodeTableWord 16 0b0111000000101101 = some (.setSeconds 45) := by decide
/-- 1000 0000 0000 0000 (R140). -/
theorem test_decode_getClock : decodeTableWord 16 0b1000000000000000 = some .getClock := by decide
/-- 1001 0000 0000 0000 (R141). -/
theorem test_decode_getCalClock : decodeTableWord 16 0b1001000000000000 = some .getCalClock := by decide
/-- 1010 0000 0000 0000 with the ports of E5 (R142). -/
theorem test_decode_setCalClock :
    decode { cmd := 0b1010000000000000, ports := e5 } = .ok (.setCalClock e5) := by decide

/-- The illegal words of 2.1, 2.2 and 2.6, each for its point of R73. -/
theorem test_decode_illegal :
    decode { cmd := 0x0000, ports := e5 } = .error .reservedOpcode ∧
    decode { cmd := 0xB000, ports := e5 } = .error .reservedOpcode ∧
    decode { cmd := 0x1100, ports := e5 } = .error .mustBeZero ∧
    decode { cmd := 0x5001, ports := e5 } = .error .mustBeZero ∧
    decode { cmd := 0x4010, ports := e5 } = .error .mustBeZero ∧
    decode { cmd := 0x4200, ports := e5 } = .error .mustBeZero ∧
    decode { cmd := 0x400B, ports := e5 } = .error .reservedRegister := by decide

/-- The assembler line of R84 for a register form. -/
theorem test_asm_makeAddr : Instr.asm (.makeAddr true .clockBurst) = "MAKE_ADDR CLOCK_BURST, rd" := by decide

/-! ### The well-formedness checks refuse an ill-formed term each -/

/-- R73, first point: a reserved opcode. -/
theorem test_wf_opcode : Half.legal 0xB000 = false := by decide
/-- R73, second point: a must-be-zero bit. -/
theorem test_wf_mustBeZero : Half.legal 0x1F00 = false := by decide
/-- R73, third point: register id 11. -/
theorem test_wf_register : Half.legal 0x400B = false := by decide
/-- A legal word passes. -/
theorem test_wf_legal : Half.legal 0x400A = true := by decide
/-- R75 (a): `NAT(SECONDS)` is not 0x80. -/
theorem test_wf_nat_seconds :
    Params.wf { Params.default with nat := { NatMap.suggested with seconds := 0x90 } } = false := by decide
/-- R75 (b): a natural constant with bit 0 set. -/
theorem test_wf_nat_flagBit :
    Params.wf { Params.default with nat := { NatMap.suggested with ram := 0xC1 } } = false := by decide
/-- R75 (c): two equal natural constants. -/
theorem test_wf_nat_distinct :
    Params.wf { Params.default with nat := { NatMap.suggested with ram := 0x82 } } = false := by decide
/-- The default parameters pass. -/
theorem test_wf_nat_default : Params.default.wf = true := by decide

/-! ### The commands -/

/-- BCD_ENC #45 gives 0x45 (R104). -/
theorem test_bcdEnc : after (run State.reset 0x102D) (fun t => t.regs.resByte) = some (some 0x45) := by decide
/-- BCD_ENC #100 takes a draw, with no error (2.1). -/
theorem test_bcdEnc_above : after (run (uninit [] [0xC7]) 0x1064) (fun t => (t.regs.resByte, t.regs.err)) =
    some (some 0xC7, .ok) := by decide
/-- BCD_DEC #0xFF gives 165 (2.1). -/
theorem test_bcdDec : after (run State.reset 0x20FF) (fun t => (t.regs.resByte, outcome t)) =
    some (some 165, .uninit, false, .ok) := by decide
/-- BCD_DEC #0x0A with the check on (2.1). -/
theorem test_bcdDec_checked : after (run (checked State.reset) 0x200A) (fun t => (t.regs.resByte, outcome t)) =
    some (none, .uninit, true, .decodeError) := by decide
/-- BIT_REV #0x45 gives 0xA2 (R114). -/
theorem test_bitRev : after (run State.reset 0x3045) (fun t => t.regs.resByte) = some (some 0xA2) := by decide
/-- BIT_REV #0xF0 gives 0x0F (2.2). -/
theorem test_bitRev_nibbles : after (run State.reset 0x30F0) (fun t => t.regs.resByte) = some (some 0x0F) := by decide
/-- MAKE_ADDR CLOCK_BURST, rd gives 0xFD under I-GK2 (2.2). -/
theorem test_makeAddr : after (run State.reset 0x4108) (fun t => t.regs.resByte) = some (some 0xFD) := by decide
/-- MAKE_ADDR RAM_BURST, wr gives 0x7F under I-GK2 (2.2). -/
theorem test_makeAddr_ram : after (run State.reset 0x400A) (fun t => t.regs.resByte) = some (some 0x7F) := by decide

/-- V-I2: bit 7 set, seconds written to 0. -/
theorem test_init : after (run (uninit [true, true, true] [0x80]) 0x5000) (fun t => (t.history, outcome t)) =
    some ([writeEvent [0x71, 0x00] true, readEvent [0x81] [0x80], writeEvent [0x01, 0x00] true],
      .ready, false, .ok) := by decide
/-- V-I3: bit 0 set and bit 7 clear, no write. -/
theorem test_init_clear : after (run (uninit [true, true] [0x01]) 0x5000) (fun t => (t.history, outcome t)) =
    some ([writeEvent [0x71, 0x00] true, readEvent [0x81] [0x01]], .ready, false, .ok) := by decide

/-- V-S2: the raw byte. -/
theorem test_getSeconds : after (run (ready [true] [0x9A]) 0x6000) (fun t => (t.history, t.regs.resByte)) =
    some ([readEvent [0x81] [0x9A]], some 0x9A) := by decide
/-- V-S1: before INIT. -/
theorem test_getSeconds_uninit : after (run State.reset 0x6000) (fun t => (t.history, outcome t)) =
    some ([], .uninit, true, .notInitialised) := by decide
/-- V-S7. -/
theorem test_setSeconds : after (run (ready [true] []) 0x703B) (fun t => t.history) =
    some [writeEvent [0x01, 0x9A] true] := by decide
/-- V-S11: a failed write. -/
theorem test_setSeconds_err : after (run (ready [false] []) 0x702D) (fun t => (t.history, outcome t)) =
    some ([writeEvent [0x01, 0xA2] false], .ready, false, .transportError) := by decide

/-- V-B3: a chip's 23:59:59 seen reversed and decoded unreversed. -/
theorem test_getClock : after (run (ready [true] [0x9A, 0x9A, 0xC4]) 0x8000) (fun t => t.regs.clk) =
    some (some 100, some 100, some 124) := by decide
/-- V-B7: the optional check. -/
theorem test_getClock_checked : after (run (checked (ready [true] [0xFF, 0x0A, 0x00])) 0x8000)
    (fun t => (t.regs.clk, outcome t)) = some ((none, none, none), .ready, true, .decodeError) := by decide
/-- V-B10: E5 read back. -/
theorem test_getCalClock : after (run (ready [true] [0x00, 0xA2, 0xC8, 0xA8, 0xC0, 0xA0, 0x24, 0x00]) 0x9000)
    (fun t => (t.regs.clk, t.regs.cal)) =
    some ((some 0, some 45, some 13), some 2024, some 3, some 15, some 5) := by decide
/-- V-B14: the day byte read as a plain integer. -/
theorem test_getCalClock_plain :
    after (run { ready [true] [0, 0, 0, 0, 0, 0x48, 0, 0] with params := { Params.default with dayDecode := .plain } }
      0x9000) (fun t => t.regs.resDay) = some (some 18) := by decide
/-- V-B20: E5's frame under `P_BURST_WRITE_ADDR_REVERSED`. -/
theorem test_setCalClock : after (runCal (reversedAddr (ready [true] [])) e5) (fun t => t.history) =
    some [writeEvent [0x7D, 0x00, 0xA2, 0xC8, 0xA8, 0xC0, 0xA0, 0x24, 0x00] true] := by decide
/-- V-B23: year 2100 sends a draw in the year position, with no error. -/
theorem test_setCalClock_year :
    after (runCal (ready [true] [0x01])
      { yearIn := 2100, monthIn := 1, dateIn := 1, dayIn := 1, hourIn := 0, minIn := 0, secIn := 0 })
      (fun t => (t.history, t.regs.err)) =
    some ([writeEvent [0xBE, 0x00, 0x00, 0x00, 0x80, 0x80, 0x80, 0x80, 0x00] true], .ok) := by decide

/-! ### The reference chip, behind single transport calls -/

/-- R61: WRITE_PROTECT takes a write while write-protect is set. -/
theorem test_chip_writeProtect :
    ({ ready [true] [] with chip := some chipP1 }.busWrite [0x71, 0x00]).2.chip = some chipOpen := by decide
/-- R61: a write of SECONDS while write-protect is set is ignored. -/
theorem test_chip_protected :
    ({ ready [true] [] with chip := some chipP1 }.busWrite [0x01, 0x00]).2.chip = some chipP1 := by decide
/-- R62: the nine-byte frame of P1. -/
theorem test_chip_burst :
    ({ ready [true] [] with chip := some chipOpen }.busWrite
      [0x7D, 0x00, 0xA2, 0xC8, 0xA8, 0xC0, 0xA0, 0x24, 0x00]).2.chip = some
      { seconds := 0x00, minutes := 0x45, hours := 0x13, date := 0x15, month := 0x03, day := 0x05, year := 0x24,
        writeProtect := 0x00, ram := [] } := by decide
/-- R62: without the trailing byte the year does not change and the other six are draws. -/
theorem test_chip_shortBurst :
    ({ ready [true] [1, 2, 3, 4, 5, 6] with chip := some chipOpen }.busWrite
      [0x7D, 0x00, 0xA2, 0xC8, 0xA8, 0xC0, 0xA0, 0x24]).2.chip = some
      { chipOpen with seconds := 1, minutes := 2, hours := 3, date := 4, month := 5, day := 6 } := by decide
/-- R59: 0xBE on the wire is a read command in a write frame, with no effect (P2). -/
theorem test_chip_mismatch :
    ({ ready [true] [] with chip := some chipOpen }.busWrite
      [0xBE, 0x00, 0xA2, 0xC8, 0xA8, 0xC0, 0xA0, 0x24, 0x00]).2.chip = some chipOpen := by decide
/-- R65: a failed write leaves any byte in its target, here the next draw, and so it does under write-protect (I4). -/
theorem test_chip_failed :
    ({ ready [false] [0xE7] with chip := some chipOpen }.busWrite [0x01, 0x00]).2.chip =
      some { chipOpen with seconds := 0xE7 } ∧
    ({ ready [false] [0xE7] with chip := some chipP1 }.busWrite [0x01, 0x00]).2.chip =
      some { chipP1 with seconds := 0xE7 } := by decide
/-- R190, I3: a failed burst frame leaves all eight registers unspecified, under write-protect and with a command byte the
chip takes for none of its writes. -/
theorem test_chip_failedBurst :
    ({ ready [false] [1, 2, 3, 4, 5, 6, 7, 8] with chip := some chipP1 }.busWrite
      [0xBE, 0x00, 0xA2, 0xC8, 0xA8, 0xC0, 0xA0, 0x24, 0x00]).2.chip = some
      { seconds := 1, minutes := 2, hours := 3, date := 4, month := 5, day := 6, year := 7, writeProtect := 8,
        ram := [] } := by decide

/-! ### The host's other moves -/

/-- An illegal word (2.6). -/
theorem test_illegal : after (run State.reset 0xFFFF) outcome = some (.uninit, true, .illegalCommand) := by decide
/-- `STATUS` in READY with a fault and code 4 is 0x1C (R24). -/
theorem test_status : after (run (ready [] []) 0x5000) (fun t => t.regs.status) = some 0x1C := by decide
/-- The reset input (R180). -/
theorem test_reset : after (step { ready [] [] with inputs := [.reset] }) (fun t => t.regs) = some Regs.reset := by
  decide
/-- A host read of a result register that holds no value (R29). -/
theorem test_read_noValue :
    (match step { State.reset with inputs := [.read .resByte] } with
      | .fault r => some r
      | .next _ => none
      | .refused _ => none) = some (.noValue .resByte) := by decide
/-- Power-up of the chip (R66): every register is a draw. -/
theorem test_powerUp :
    (uninit [] [1, 2, 3, 4, 5, 6, 7, 8]).attachChip.chip = some
      { seconds := 1, minutes := 2, hours := 3, date := 4, month := 5, day := 6, year := 7, writeProtect := 8,
        ram := [] } := by decide

/-! ### Witnesses: states and operands that meet each statement's hypotheses together -/

/-- EncodeInvertsDecode: a word of each format. -/
theorem witness_EncodeInvertsDecode :
    decode { cmd := 0x703B, ports := e5 } = .ok (.setSeconds 59) ∧
    decode { cmd := 0x410A, ports := e5 } = .ok (.makeAddr true .ramBurst) ∧
    decode { cmd := 0xA000, ports := e5 } = .ok (.setCalClock e5) := by decide

/-- DecodesExactlyLegalWords: a word on each side. -/
theorem witness_DecodesExactlyLegalWords : Half.legal 0x400A = true ∧ Half.legal 0x400B = false := by decide

/-- StepRunsCommand: a queue whose head decodes. -/
theorem witness_StepRunsCommand :
    let c : Command := { cmd := 0x5000, ports := e5 }
    let s := { State.reset with inputs := [.command c, .reset] }
    s.params.wf = true ∧ s.inputs = .command c :: [.reset] ∧ decode c = .ok .init := by decide

/-- IllegalWordFaults. -/
theorem witness_IllegalWordFaults :
    Half.legal ({ cmd := 0x400B, ports := e5 } : Command).cmd = false := by decide

/-- ResetInputResetsBlock. -/
theorem witness_ResetInputResetsBlock :
    let s := { ready [] [] with inputs := [.reset] }
    s.params.wf = true ∧ s.inputs = .reset :: [] := by decide

/-- OnlyResetClears: a reset that clears `FAULT`, and one that takes READY back to UNINIT. -/
theorem witness_OnlyResetClears :
    let s := { State.reset with regs := { Regs.reset with fault := true, err := .illegalCommand }, inputs := [.reset] }
    let r := { ready [] [] with inputs := [.reset] }
    (s.regs.fault = true ∧ after (step s) (fun t => t.regs.fault) = some false) ∧
    (r.regs.initState = .ready ∧ after (step r) (fun t => t.regs.initState) = some .uninit) := by decide

/-- WaitsForMove. -/
theorem witness_WaitsForMove : State.reset.params.wf = true ∧ State.reset.inputs = [] := by decide

/-- IllFormedNatRefused: a set that breaks each clause alone, and one that breaks none. -/
theorem witness_IllFormedNatRefused :
    ({ NatMap.suggested with seconds := 0x90 }).get .seconds ≠ 0x80 ∧
    (({ NatMap.suggested with ram := 0xC1 }).get .ram).getLsbD 0 = true ∧
    ({ NatMap.suggested with ram := 0x82 }).get .ram = ({ NatMap.suggested with ram := 0x82 }).get .minutes ∧
    Params.default.wf = true := by decide

/-- HostReadOfNoValueFaults: parameters that meet R75, a register without a value and registers with one. -/
theorem witness_HostReadOfNoValueFaults :
    State.reset.params.wf = true ∧ State.reset.regs.resByte = none ∧
    after (exec (.bitRev 0xFF) State.reset) (fun t => t.regs.resByte) = some (some 0xFF) ∧
    after (exec .getCalClock (ready [true] [0, 0, 0, 0x80, 0x80, 0x80, 0xFF, 0])) (fun t => t.regs.resYear) =
      some (some 2165) := by decide

/-- BcdEncWritesPackedByte: the two sides of 99. -/
theorem witness_BcdEncWritesPackedByte : (99#8).toNat ≤ 99 ∧ 99 < (100#8).toNat ∧ 99 < (255#8).toNat := by decide

/-- BcdDecWritesDecodedValue: the check off, the check on with the last decimal byte, and with bytes past it in either
nibble. -/
theorem witness_BcdDecWritesDecodedValue :
    State.reset.params.decodeCheck = false ∧ Decimal 0x99 ∧
    (checked State.reset).params.decodeCheck = true ∧ ¬ Decimal 0x9A ∧ ¬ Decimal 0xA0 := by
  unfold Decimal; decide

/-- CodecRoundTrips: the ends of both ranges. -/
theorem witness_CodecRoundTrips : (0#8).toNat ≤ 99 ∧ (99#8).toNat ≤ 99 ∧ Decimal 0x00 ∧ Decimal 0x99 := by
  unfold Decimal; decide

/-- BitRevLaws, last clause: a palindrome and a value that is none. -/
theorem witness_BitRevLaws : (99 ≤ 99 ∧ Encodes 99 0x99) ∧ (45 ≤ 99 ∧ Encodes 45 0x45) := by
  unfold Encodes; decide

/-- MakeAddrBuildsWireByte, SecondsAddressBytes, AddressDescriptionsAgree: parameters that meet R75. -/
theorem witness_MakeAddrBuildsWireByte : State.reset.params.wf = true := by decide
theorem witness_SecondsAddressBytes : (ready [] []).params.wf = true := by decide
theorem witness_AddressDescriptionsAgree : Params.default.wf = true := by decide

/-- DatapathTouchesNoBus. -/
theorem witness_DatapathTouchesNoBus : (Instr.bitRev 0x45).datapath = true := by decide

/-- InitClearsAndBecomesReady. -/
theorem witness_InitClearsAndBecomesReady :
    let s := uninit [true, true, true] [0x80]
    s.params.wf = true ∧ s.regs.initState = .uninit ∧ s.draws.okAt 0 = true ∧ s.draws.okAt 1 = true ∧
      s.draws.okAt 2 = true := by decide

/-- InitFailureStopsThere: each clause, the third with the received bit both set and clear. -/
theorem witness_InitFailureStopsThere :
    (uninit [false] []).params.wf = true ∧ (uninit [false] []).regs.initState = .uninit ∧
    (uninit [false] []).draws.okAt 0 = false ∧
    ((uninit [true, false] []).draws.okAt 0 = true ∧ (uninit [true, false] []).draws.okAt 1 = false) ∧
    ((uninit [true, true, false] [0x80]).draws.okAt 2 = false ∧
      after (exec .init (uninit [true, true, false] [0x80])) outcome = some (.uninit, false, .transportError)) ∧
    ((uninit [true, true, false] [0x7F]).draws.okAt 2 = false ∧
      after (exec .init (uninit [true, true, false] [0x7F])) outcome = some (.ready, false, .ok)) := by decide

/-- SecondInitFaults: both clauses, the second after an INIT that failed. -/
theorem witness_SecondInitFaults :
    (ready [] []).regs.initState = .ready ∧ (uninit [false] []).regs.initState = .uninit ∧
    after (exec .init (uninit [false] [])) outcome = some (.uninit, false, .transportError) := by decide

/-- OnlyInitMovesInitState. -/
theorem witness_OnlyInitMovesInitState :
    (uninit [true, true] [0x00]).regs.initState = .uninit ∧
    after (exec .init (uninit [true, true] [0x00])) (fun t => t.regs.initState) = some .ready := by decide

/-- InitStateMachine: INIT with every call answered `ok`, and with one answered `err`; a bus command and a datapath
command in UNINIT; INIT and another command in READY; an illegal word; the reset input. -/
theorem witness_InitStateMachine :
    after (exec .init (uninit [true, true] [0x00])) (fun t => (t.history.all fun e => e.result != .err, outcome t)) =
      some (true, .ready, false, .ok) ∧
    after (exec .init (uninit [true, false] [])) (fun t => (t.history.any fun e => e.result == .err, outcome t)) =
      some (true, .uninit, false, .transportError) ∧
    (Instr.getSeconds.needsInit = true ∧ (Instr.bcdEnc 45).datapath = true ∧
      State.reset.regs.initState = .uninit) ∧
    (ready [] []).regs.initState = .ready ∧
    after (exec .getSeconds (ready [true] [0x9A])) outcome = some (.ready, false, .ok) ∧
    (State.reset.params.wf = true ∧ Half.legal 0x5001 = false ∧
      (State.reset.withFetchWord 16 0x5001).inputs = .command (tableCommand 16 0x5001) :: []) ∧
    ({ State.reset with inputs := [.reset] } : State).inputs = .reset :: [] := by decide

/-- GetSecondsReturnsRawByte. -/
theorem witness_GetSecondsReturnsRawByte :
    let s := ready [true] [0x9A]
    s.params.wf = true ∧ s.regs.initState = .ready ∧ s.draws.okAt 0 = true := by decide

/-- SetSecondsWritesFrame: the hypotheses, and both sides of 99. -/
theorem witness_SetSecondsWritesFrame :
    let s := ready [true] []
    s.params.wf = true ∧ s.regs.initState = .ready ∧ s.draws.okAt 0 = true ∧ (99#8).toNat ≤ 99 ∧
      ¬ (100#8).toNat ≤ 99 := by decide

/-- BusCommandBeforeInitFaults. -/
theorem witness_BusCommandBeforeInitFaults :
    (Instr.setCalClock e5).needsInit = true ∧ Instr.getClock.needsInit = true ∧
    State.reset.regs.initState = .uninit := by decide

/-- TransportErrorSurfaces: the hypotheses, both sides of 99, and the further one of SET_CAL_CLOCK. -/
theorem witness_TransportErrorSurfaces :
    let s := ready [false] []
    s.regs.initState = .ready ∧ s.draws.okAt 0 = false ∧ (99#8).toNat ≤ 99 ∧ ¬ (100#8).toNat ≤ 99 ∧
      s.burstHitsRam = false := by decide

/-- GetClockDecodesThreeBytes: both readings of the data bytes. -/
theorem witness_GetClockDecodesThreeBytes :
    let s := ready [true] [0x59, 0x59, 0x23]
    (s.regs.initState = .ready ∧ s.draws.okAt 0 = true ∧ s.params.decodeCheck = false ∧
      s.params.clockReadReversed = false) ∧
    { s.params with clockReadReversed := true }.decodeCheck = false := by decide

/-- GetCalClockDecodesSevenBytes: both readings of the day byte. -/
theorem witness_GetCalClockDecodesSevenBytes :
    let s := ready [true] [0x00, 0xA2, 0xC8, 0xA8, 0xC0, 0xA0, 0x24, 0x00]
    (s.regs.initState = .ready ∧ s.draws.okAt 0 = true ∧ s.params.decodeCheck = false ∧ s.params.dayDecode = .bcd) ∧
    { s.params with dayDecode := .plain }.decodeCheck = false := by decide

/-- DecodeCheckGuardsReads: both outcomes of each read, the day byte checked and not. -/
theorem witness_DecodeCheckGuardsReads :
    (checked (ready [true] [0x99, 0x59, 0x23])).regs.initState = .ready ∧
    (checked (ready [true] [0x99, 0x59, 0x23])).draws.okAt 0 = true ∧
    (checked (ready [true] [0x99, 0x59, 0x23])).params.decodeCheck = true ∧
    after (exec .getClock (checked (ready [true] [0x99, 0x59, 0x23]))) outcome = some (.ready, false, .ok) ∧
    after (exec .getClock (checked (ready [true] [0x9A, 0x59, 0x23]))) outcome = some (.ready, true, .decodeError) ∧
    after (exec .getCalClock (checked (ready [true] [0, 0, 0, 0, 0, 0x50, 0, 0]))) outcome =
      some (.ready, true, .decodeError) ∧
    after (exec .getCalClock
      { ready [true] [0, 0, 0, 0, 0, 0x50, 0, 0] with
        params := { Params.default with decodeCheck := true, dayDecode := .plain } }) outcome =
      some (.ready, false, .ok) := by decide

/-- SetCalClockWritesNineBytes: the hypotheses under both command bytes and both answers, and the ends of the year's
range. -/
theorem witness_SetCalClockWritesNineBytes :
    let s := ready [true] []
    (s.regs.initState = .ready ∧ s.draws.okAt 0 = true ∧ s.burstHitsRam = false ∧
      s.params.burstWriteAddrReversed = false) ∧
    ((reversedAddr s).burstHitsRam = false ∧ (reversedAddr s).params.burstWriteAddrReversed = true) ∧
    (ready [false] []).draws.okAt 0 = false ∧
    (2000 ≤ (2000#16).toNat ∧ (2099#16).toNat ≤ 2099 ∧ ¬ 2000 ≤ (1999#16).toNat ∧ ¬ (2100#16).toNat ≤ 2099) := by decide

/-- Parameters that meet R75 under which the default command byte is a RAM write of the chip: `NAT(CLOCK_BURST)` is the
reversal of `NAT(RAM)`. -/
def ramNat : NatMap := { NatMap.suggested with clockBurst := 0x02, ram := 0x40 }

/-- RamCommandRefused: states where the command byte is a RAM write, where it is a RAM_BURST write, and, one condition
failing in each, where it is neither. -/
theorem witness_RamCommandRefused :
    let s := { ready [true] [] with chip := some chipOpen, params := { Params.default with nat := ramNat } }
    let b := { s with params := { Params.default with nat := { NatMap.suggested with clockBurst := 0x02, ramBurst := 0x40 } } }
    (s.params.wf = true ∧ s.regs.initState = .ready ∧ s.CalFrameHitsRam) ∧
    (b.params.wf = true ∧ b.regs.initState = .ready ∧ b.CalFrameHitsRam) ∧
    ¬ ({ s with chip := none } : State).CalFrameHitsRam ∧ ¬ (reversedAddr s).CalFrameHitsRam ∧
    ¬ ({ ready [true] [] with chip := some chipOpen } : State).CalFrameHitsRam := by
  unfold State.CalFrameHitsRam; decide

/-- ReadsAgainstChip: a chip still because ticks are frozen, with the day read both ways. -/
theorem witness_ReadsAgainstChip :
    let s := { ready [true] [] with chip := some chipP1 }
    (s.params.wf = true ∧ s.chip = some chipP1 ∧ s.still chipP1 = true ∧ s.regs.initState = .ready ∧
      s.draws.okAt 0 = true ∧ s.params.decodeCheck = false ∧ s.params.clockReadReversed = false ∧
      s.params.dayDecode = .bcd) ∧
    ({ s.params with dayDecode := .plain }.wf = true ∧ { s.params with dayDecode := .plain }.decodeCheck = false) := by
  decide

/-- BurstReadsAgreeOnPalindromes: a chip whose clock bytes are palindromes, and one whose are not. -/
theorem witness_BurstReadsAgreeOnPalindromes :
    let c := { chipOpen with seconds := 0x24, minutes := 0x42, hours := 0x18 }
    let s := { ready [true] [] with chip := some c }
    (s.params.wf = true ∧ s.chip = some c ∧ s.still c = true ∧ s.regs.initState = .ready ∧ s.draws.okAt 0 = true ∧
      s.params.decodeCheck = false ∧ s.params.clockReadReversed = false ∧ Decimal c.seconds ∧ Decimal c.minutes ∧
      Decimal c.hours ∧ bitRev c.seconds = c.seconds ∧ bitRev c.minutes = c.minutes ∧ bitRev c.hours = c.hours) ∧
    Decimal chipOpen.seconds ∧ bitRev chipOpen.seconds ≠ chipOpen.seconds := by
  unfold Decimal; decide

/-- SetSecondsAgainstChip: write-protect set and clear, the call answered `ok` and `err`; the chip still because its
clock is halted. -/
theorem witness_SetSecondsAgainstChip :
    let h := { chipOpen with seconds := 0x80 }
    let s := { ready [true] [] with chip := some h, params := { Params.default with chipTicks := .free } }
    (s.params.wf = true ∧ s.chip = some h ∧ s.still h = true ∧ s.regs.initState = .ready ∧
      s.draws.okAt 0 = true ∧ h.writeProtected s.params = false) ∧
    chipP1.writeProtected s.params = true ∧ (ready [false] []).draws.okAt 0 = false ∧ (99#8).toNat ≤ 99 := by decide

/-- SetCalClockAgainstChip: write-protect set and clear. -/
theorem witness_SetCalClockAgainstChip :
    let s := { reversedAddr (ready [true] []) with chip := some chipOpen }
    (s.params.wf = true ∧ s.params.burstWriteAddrReversed = true ∧ s.chip = some chipOpen ∧
      s.still chipOpen = true ∧ s.regs.initState = .ready ∧ s.draws.okAt 0 = true ∧ inCalendar e5) ∧
    chipOpen.writeProtected s.params = false ∧ chipP1.writeProtected s.params = true := by
  unfold inCalendar; decide

/-- UnreversedBurstWriteIgnored: the default parameters. -/
theorem witness_UnreversedBurstWriteIgnored :
    let s := { ready [true] [] with chip := some chipOpen }
    s.params.wf = true ∧ s.params.burstWriteAddrReversed = false ∧
      (bitRev (s.params.nat.get .clockBurst)).getLsbD 0 = true ∧ s.chip = some chipOpen ∧ s.still chipOpen = true ∧
      s.regs.initState = .ready ∧ s.draws.okAt 0 = true := by decide

/-- FailedSetCalClockAgainstChip: write-protect set, under the default command byte. -/
theorem witness_FailedSetCalClockAgainstChip :
    let s := { ready [false] [] with chip := some chipP1 }
    s.chip = some chipP1 ∧ s.regs.initState = .ready ∧ s.burstHitsRam = false ∧ s.draws.okAt 0 = false ∧
      chipOpen.ram = chipP1.ram := by decide

/-- FreeTicksMoveRunningChip: a halted chip, a running one before the first call, and a running one after it, with a chip it
may move to. -/
theorem witness_FreeTicksMoveRunningChip :
    let h := { chipP1 with seconds := 0x80 }
    let s := { ready [true] [] with chip := some chipP1, params := { Params.default with chipTicks := .free } }
    let v := { chipP1 with seconds := 0x7F, year := 0xFF }
    (s.chip = some chipP1 ∧ s.params.chipTicks = .free ∧ s.regs.initState = .ready) ∧
    (h.halted = true ∧ s.history = []) ∧
    (chipP1.halted = false ∧ ({ s with history := [writeEvent [0x01, 0x9A] true] } : State).history ≠ []) ∧
    (v.halted = false ∧ v.writeProtect = chipP1.writeProtect ∧ v.ram = chipP1.ram) ∧
    (s.params.wf = true ∧ s.draws.okAt 0 = true) := by decide

/-- SetSecondsAgainstRunningChip: write-protect set and clear, and the last exact value. -/
theorem witness_SetSecondsAgainstRunningChip :
    let s := { ready [true] [] with chip := some chipOpen, params := { Params.default with chipTicks := .free } }
    s.params.wf = true ∧ s.chip = some chipOpen ∧ s.params.chipTicks = .free ∧ chipOpen.halted = false ∧
      s.regs.initState = .ready ∧ s.draws.okAt 0 = true ∧ chipOpen.writeProtected s.params = false ∧
      chipP1.writeProtected s.params = true ∧ chipP1.halted = false ∧ (99#8).toNat ≤ 99 := by decide

/-- InitAgainstChip. -/
theorem witness_InitAgainstChip :
    let s := { uninit [true, true, true] [] with chip := some chipP1 }
    s.params.wf = true ∧ s.chip = some chipP1 ∧ s.params.chipTicks = .frozen ∧ s.regs.initState = .uninit ∧
      s.draws.okAt 0 = true ∧ s.draws.okAt 1 = true ∧ s.draws.okAt 2 = true := by decide

/-- CalendarRoundTrip: both ways the chip takes the command byte, and the ends of every field's range. -/
theorem witness_CalendarRoundTrip :
    let s := { reversedAddr (ready [true, true] []) with chip := some chipOpen }
    let q := { Params.default with nat := { NatMap.suggested with clockBurst := 0x3C } }
    let low : Ports :=
      { yearIn := 2000, monthIn := 1, dateIn := 1, dayIn := 1, hourIn := 0, minIn := 0, secIn := 0 }
    let high : Ports :=
      { yearIn := 2099, monthIn := 12, dateIn := 31, dayIn := 7, hourIn := 23, minIn := 59, secIn := 59 }
    (s.params.wf = true ∧ s.chip = some chipOpen ∧ s.params.chipTicks = .frozen ∧
      chipOpen.writeProtected s.params = false ∧ s.params.burstWriteAddrReversed = true ∧
      s.regs.initState = .ready ∧ s.draws.okAt 0 = true ∧ s.draws.okAt 1 = true ∧ inCalendar e5 ∧ inCalendar low ∧
      inCalendar high) ∧
    (q.wf = true ∧ q.burstWriteAddrReversed = false ∧ bitRev (q.nat.get .clockBurst) = q.nat.get .clockBurst) := by
  unfold inCalendar; decide

/-- OracleCoversChip: a command that completes with a chip attached. -/
theorem witness_OracleCoversChip :
    after (exec .getSeconds { ready [true] [] with chip := some chipOpen }) (fun t => t.regs.resByte) =
      some (some 0x9A) := by decide

/-- ErrorWritesNoResult: a command that ends in an error. -/
theorem witness_ErrorWritesNoResult :
    after (exec .getClock (ready [false] [])) outcome = some (.ready, false, .transportError) := by decide

/-- ResultsWrittenByTheirCommands: a command that writes each of the three groups. -/
theorem witness_ResultsWrittenByTheirCommands :
    after (exec (.bitRev 0x01) State.reset) (fun t => t.regs.resByte) = some (some 0x80) ∧
    after (exec .getClock (ready [true] [0x59, 0x59, 0x23])) (fun t => t.regs.clk) =
      some (some 59, some 59, some 23) ∧
    after (exec .getCalClock (ready [true] [0, 0, 0, 0x80, 0x80, 0x80, 0xFF, 0])) (fun t => t.regs.cal) =
      some (some 2165, some 1, some 1, some 1) := by decide

/-- FaultFollowsErr: a fault, an error that is none, and a fault kept by a success. -/
theorem witness_FaultFollowsErr :
    after (exec .getSeconds State.reset) outcome = some (.uninit, true, .notInitialised) ∧
    after (exec .getSeconds (ready [false] [])) outcome = some (.ready, false, .transportError) ∧
    after (exec (.bcdEnc 59)
      { State.reset with regs := { Regs.reset with fault := true, err := .illegalCommand } }) outcome =
      some (.uninit, true, .ok) := by decide

/-- StepKeepsInv, StepSendsOnlyListedFrames, ParamsAndRamUntouched: steps that answer a next state, from a state with the
invariant (ResetHasInv). -/
theorem witness_StepKeepsInv : State.Inv (State.reset.withFetchWord 16 0x5000) := by
  simp [State.Inv, State.withFetchWord, State.reset, Regs.reset, Regs.errInv, Regs.resInv, atMost, ErrCode.isFault]
theorem witness_StepSendsOnlyListedFrames :
    after (run (uninit [true, true] [0x00]) 0x5000) (fun t => t.history.length) = some 2 := by decide
theorem witness_ParamsAndRamUntouched :
    after (run { ready [true] [] with chip := some { chipOpen with ram := [(0, 0xAA)] } } 0x7000)
      (fun t => t.chip.map Chip.ram) = some (some [(0, 0xAA)]) := by decide

end Sys2Proof.Tests
end

section
/-! SUPPORT. The family 30_encoding: which runs are refused for their `NAT` (R75), and the wire address bytes (R76). -/

namespace Sys2Proof.Machine

/-! ### The refusals of a step -/

/-- A command whose body completes in every state completes before INIT, too. -/
theorem State.requireReady_completes (body : State → State) (s : State) :
    ∃ t, s.requireReady (fun s => .next (body s)) = .next t := by
  cases hi : s.regs.initState with
  | uninit => exact ⟨_, s.requireReady_uninit _ hi⟩
  | ready => exact ⟨_, s.requireReady_ready _ hi⟩

/-- A command completes or is refused for a RAM command (R59): nothing in it checks R75. -/
theorem exec_completes_or_ram (i : Instr) (s : State) :
    (∃ t, exec i s = .next t) ∨ exec i s = .refused .ramCommand := by
  cases i with
  | bcdEnc v => exact .inl ⟨_, rfl⟩
  | bcdDec b =>
    left
    simp only [exec, execBcdDec]
    split <;> exact ⟨_, rfl⟩
  | bitRev b => exact .inl ⟨_, rfl⟩
  | makeAddr rd r => exact .inl ⟨_, rfl⟩
  | init =>
    cases hi : s.regs.initState with
    | uninit => exact .inl ⟨_, exec_init_uninit s hi⟩
    | ready => exact .inl ⟨_, exec_init_ready s hi⟩
  | getSeconds => exact .inl (s.requireReady_completes getSecondsBody)
  | setSeconds v => exact .inl (s.requireReady_completes fun s => State.endWrite (s.wrSeconds v.toNat))
  | getClock => exact .inl (s.requireReady_completes getClockBody)
  | getCalClock => exact .inl (s.requireReady_completes getCalClockBody)
  | setCalClock p =>
    cases hi : s.regs.initState with
    | uninit => exact .inl ⟨_, s.requireReady_uninit (setCalClockBody p) hi⟩
    | ready =>
      cases hr : s.burstHitsRam with
      | true => exact .inr (exec_setCalClock_ram p s hi hr)
      | false => exact .inl ⟨_, exec_setCalClock_ready p s hi hr⟩

theorem issue_ne_badParameters (c : Command) (s : State) : issue c s ≠ .refused .badParameters := by
  unfold issue
  split
  · rename_i i _
    obtain ⟨t, h⟩ | h := exec_completes_or_ram i s <;> simp [h]
  · simp

theorem State.hostRead_ne_badParameters (r : HostReg) (s : State) : s.hostRead r ≠ .refused .badParameters := by
  unfold State.hostRead
  split <;> simp

theorem serveNext_ne_badParameters (s : State) : serveNext s ≠ .refused .badParameters := by
  unfold serveNext
  split
  · simp
  · rename_i m rest _
    cases m with
    | command c => exact issue_ne_badParameters c _
    | reset => simp [serve]
    | read r => exact State.hostRead_ne_badParameters r _

/-- A step is refused for its parameters exactly when they fail the check of R75. -/
theorem step_badParameters_iff (s : State) : step s = .refused .badParameters ↔ ¬ s.params.wf := by
  unfold step
  split
  case isTrue w => simp [w, serveNext_ne_badParameters s]
  case isFalse w => simp [w]

/-! ### The clauses of R75 -/

/-- R75 (c) as a statement about register ids: distinct ids have distinct constants. -/
theorem NatMap.nodup_iff_injective (nat : NatMap) :
    (RegId.all.map nat.get).Nodup ↔ ∀ a b, nat.get a = nat.get b → a = b := by
  rw [List.nodup_map_iff_inj_on (by decide : RegId.all.Nodup)]
  exact ⟨fun h a b => h a (mem_all a) b (mem_all b), fun h a _ b _ => h a b⟩

/-- A parameter set fails the check exactly when it breaks (a), (b) or (c). -/
theorem not_wf_iff (p : Params) :
    ¬ p.wf ↔ p.nat.get .seconds ≠ 0x80 ∨ (∃ r, (p.nat.get r).getLsbD 0 = true) ∨
      ∃ a b, a ≠ b ∧ p.nat.get a = p.nat.get b := by
  rw [wf_iff, NatMap.nodup_iff_injective, not_and_or, not_and_or]
  refine or_congr Iff.rfl (or_congr ?_ ?_)
  · simp
  · simp only [not_forall, exists_prop, and_comm]

/-- Settles O11: the check of R75 is the only thing in a step that refuses a run as `badParameters`, and it fails exactly
when a clause is broken. -/
theorem illFormedNatRefused : Obligations.IllFormedNatRefused :=
  ⟨rfl, fun s => (step_badParameters_iff s).trans (not_wf_iff s.params)⟩

/-! ### The wire address byte -/

/-- The read flag is bit 0 alone, so it reaches no bit of the register's address. -/
theorem directionByte_getLsbD_succ (rd : Bool) (i : Nat) :
    (if rd then readFlag else 0 : Byte).getLsbD (i + 1) = false := by
  cases rd <;> simp [readFlag]

/-- `W[7] = R` (R76): the reversal brings the direction to bit 7. -/
theorem makeAddr_getLsbD_seven (p : Params) (w : p.wf) (r : RegId) (rd : Bool) :
    (makeAddr p.nat r rd).getLsbD 7 = rd := by
  rw [makeAddr, bitRev_getLsbD _ 7 (by decide)]
  exact natural_flag p w r rd

/-- `W[6:0]` is the reversal of `NAT(r)[7:1]` (R76). -/
theorem makeAddr_getLsbD_six_sub (nat : NatMap) (r : RegId) (rd : Bool) (i : Nat) (h : i < 7) :
    (makeAddr nat r rd).getLsbD (6 - i) = (nat.get r).getLsbD (i + 1) := by
  have reversed : 7 - (6 - i) = i + 1 := by omega
  rw [makeAddr, bitRev_getLsbD _ _ (by omega), reversed, BitVec.getLsbD_or, directionByte_getLsbD_succ, Bool.or_false]

/-- MAKE_ADDR as its next state (R115): only `RES_BYTE` and `ERR` are written. -/
theorem exec_makeAddr (rd : Bool) (r : RegId) (s : State) :
    exec (.makeAddr rd r) s =
      .next { s with regs := { s.regs with resByte := some (makeAddr s.params.nat r rd), err := .ok } } := rfl

/-- Settles O19: the byte is `makeAddr` under the run's `NAT`, its bits the two laws above. -/
theorem makeAddrBuildsWireByte : Obligations.MakeAddrBuildsWireByte :=
  fun rd r s w => ⟨makeAddr s.params.nat r rd, makeAddr_getLsbD_seven s.params w r rd,
    makeAddr_getLsbD_six_sub s.params.nat r rd, exec_makeAddr rd r s⟩

end Sys2Proof.Machine
end

section
/-! SUPPORT. The family 40_bcd_codec: the packed byte, the decoded value and the two codec commands (R100 to R105). -/

namespace Sys2Proof.Machine

/-! ### The codec on values -/

/-- The check of the model is R102. -/
theorem bcdValid_iff_decimal (b : Byte) : bcdValid b = true ↔ Decimal b := by
  simp only [bcdValid, Bool.and_eq_true, decide_eq_true_eq, hiNibble_eq, loNibble_eq, Decimal]

/-- R100 in the terms of the statements. -/
theorem encodes_bcdPack (v : Nat) (h : v ≤ 99) : Encodes v (bcdPack v) := bcdPack_toNat v h

/-- R101 in the terms of the statements. -/
theorem decodes_bcdDec (b : Byte) : Decodes b (bcdDec b) := by
  rw [Decodes, bcdDec_toNat, hiNibble_eq, loNibble_eq]

/-- The encoder's byte passes the optional check (R165). -/
theorem decimal_bcdPack (v : Nat) (h : v ≤ 99) : Decimal (bcdPack v) := by
  rw [Decimal, bcdPack_toNat v h]
  omega

/-- A valid byte decodes into the range where the encoder is exact. -/
theorem bcdDec_le_of_decimal (b : Byte) (h : Decimal b) : (bcdDec b).toNat ≤ 99 := by
  obtain ⟨hi, lo⟩ := h
  rw [decodes_bcdDec b]
  omega

/-- The codec's round trip on valid bytes (R103). -/
theorem bcdPack_bcdDec (b : Byte) (h : Decimal b) : bcdPack (bcdDec b).toNat = b := by
  refine BitVec.eq_of_toNat_eq ?_
  rw [bcdPack_toNat _ (bcdDec_le_of_decimal b h), decodes_bcdDec b]
  obtain ⟨_, lo⟩ := h
  omega

/-! ### The codec commands as their next states -/

/-- On 0..99 BCD_ENC writes the packed byte and draws nothing (R104). -/
theorem exec_bcdEnc_of_le (v : Byte) (s : State) (h : v.toNat ≤ 99) :
    exec (.bcdEnc v) s = .next (s.setResByte (bcdPack v.toNat)).complete := by
  simp only [exec, execBcdEnc, State.bcdEnc_of_le h]

/-- Above 99 BCD_ENC writes the next drawn byte (R100, R104). -/
theorem exec_bcdEnc_of_gt (v : Byte) (s : State) (h : 99 < v.toNat) :
    exec (.bcdEnc v) s = .next (s.draw8.2.setResByte s.draw8.1).complete := by
  simp only [exec, execBcdEnc, State.bcdEnc_of_gt h]

/-- With the optional check off, or a valid byte, BCD_DEC writes the formula's value. -/
theorem exec_bcdDec_of_accept (b : Byte) (s : State) (h : s.params.decodeCheck = false ∨ Decimal b) :
    exec (.bcdDec b) s = .next (s.setResByte (bcdDec b)).complete := by
  refine if_neg ?_
  rw [← bcdValid_iff_decimal] at h
  obtain off | valid := h
  · simp [off]
  · simp [valid]

/-- With the optional check on, BCD_DEC of an invalid byte is the fault of R165. -/
theorem exec_bcdDec_of_reject (b : Byte) (s : State) (on : s.params.decodeCheck = true) (invalid : ¬ Decimal b) :
    exec (.bcdDec b) s = .next (s.raise .decodeError) := by
  refine if_pos ?_
  rw [← bcdValid_iff_decimal] at invalid
  simp [on, invalid]

theorem State.raise_decodeError (s : State) :
    s.raise .decodeError = { s with regs := { s.regs with err := .decodeError, fault := true } } := by
  simp [State.raise, Regs.raise, ErrCode.isFault]

/-! ### The obligations -/

/-- Settles O14: the packed byte on 0..99; above, the drawn byte, and only the draws move on. -/
theorem bcdEncWritesPackedByte : Obligations.BcdEncWritesPackedByte :=
  fun v s => ⟨fun h => ⟨bcdPack v.toNat, encodes_bcdPack _ h, exec_bcdEnc_of_le v s h⟩,
    fun h => ⟨s.draw8.1, s.draw8.2.draws, exec_bcdEnc_of_gt v s h⟩⟩

/-- Settles O15: the accepted and the rejected form of BCD_DEC. -/
theorem bcdDecWritesDecodedValue : Obligations.BcdDecWritesDecodedValue :=
  fun b s => ⟨fun h => ⟨bcdDec b, decodes_bcdDec b, exec_bcdDec_of_accept b s h⟩,
    fun on invalid => by rw [exec_bcdDec_of_reject b s on invalid, State.raise_decodeError]⟩

/-- BCD_ENC then BCD_DEC gives 0..99 back (R103 (a)): the packed byte is valid, so the check never stops it. -/
theorem exec_bcdEnc_bcdDec (v : Byte) (s : State) (h : v.toNat ≤ 99) :
    ∃ d t u, exec (.bcdEnc v) s = .next t ∧ t.regs.resByte = some d ∧
      exec (.bcdDec d) t = .next u ∧ u.regs.resByte = some v := by
  have back : bcdDec (bcdPack v.toNat) = v := BitVec.eq_of_toNat_eq (bcdDec_bcdPack v.toNat h)
  refine ⟨bcdPack v.toNat, _, _, exec_bcdEnc_of_le v s h, rfl,
    exec_bcdDec_of_accept _ _ (.inr (decimal_bcdPack _ h)), ?_⟩
  simp [back]

/-- BCD_DEC then BCD_ENC gives a valid byte back (R103 (b)): the decoded value is at most 99, so nothing is drawn. -/
theorem exec_bcdDec_bcdEnc (b : Byte) (s : State) (h : Decimal b) :
    ∃ v t u, exec (.bcdDec b) s = .next t ∧ t.regs.resByte = some v ∧
      exec (.bcdEnc v) t = .next u ∧ u.regs.resByte = some b := by
  refine ⟨bcdDec b, _, _, exec_bcdDec_of_accept b s (.inr h), rfl,
    exec_bcdEnc_of_le _ _ (bcdDec_le_of_decimal b h), ?_⟩
  simp [bcdPack_bcdDec b h]

/-- Settles O16: the two round trips, and four bytes in two pairs of one value each. -/
theorem codecRoundTrips : Obligations.CodecRoundTrips :=
  ⟨exec_bcdEnc_bcdDec, exec_bcdDec_bcdEnc, by decide⟩

end Sys2Proof.Machine
end

section
/-! SUPPORT. The family 41_addressing: the laws of bit reversal and the address bytes built on it (R110 to R115). -/

namespace Sys2Proof.Machine

/-! ### The laws of bit reversal -/

theorem bitRev_and (a b : Byte) : bitRev (a &&& b) = bitRev a &&& bitRev b := by
  refine BitVec.eq_of_getLsbD_eq fun i h => ?_
  rw [BitVec.getLsbD_and, bitRev_getLsbD _ _ h, bitRev_getLsbD _ _ h, bitRev_getLsbD _ _ h, BitVec.getLsbD_and]

theorem bitRev_not (a : Byte) : bitRev (~~~a) = ~~~(bitRev a) := by
  refine BitVec.eq_of_getLsbD_eq fun i h => ?_
  have mirror : 7 - i < 8 := by omega
  rw [BitVec.getLsbD_not, bitRev_getLsbD _ _ h, bitRev_getLsbD _ _ h, BitVec.getLsbD_not]
  simp only [h, mirror]

theorem bitRev_bijective : Function.Bijective bitRev :=
  Function.Involutive.bijective bitRev_bitRev

/-- The number of set bits is kept (R111 (d)): the reversal asks the same eight bits, from the top down. -/
theorem countP_bitRev (b : Byte) :
    (List.range 8).countP (bitRev b).getLsbD = (List.range 8).countP b.getLsbD := by
  have mirrored : ((List.range 8).map fun i => 7 - i) = (List.range 8).reverse := by decide
  calc (List.range 8).countP (bitRev b).getLsbD
      = (List.range 8).countP (b.getLsbD ∘ fun i => 7 - i) :=
        List.countP_congr fun i h => by rw [bitRev_getLsbD b i (List.mem_range.1 h), Function.comp_apply]
    _ = (List.range 8).countP b.getLsbD := by rw [← List.countP_map, mirrored, List.countP_reverse]

/-! ### The palindromes -/

/-- The sixteen bytes equal to their reversal, as R111 (e) lists them. -/
def palindromes : List Byte :=
  [0x00, 0x18, 0x24, 0x3C, 0x42, 0x5A, 0x66, 0x7E, 0x81, 0x99, 0xA5, 0xBD, 0xC3, 0xDB, 0xE7, 0xFF]

/-- The low nibble of a palindrome fixes the high one, so there is one palindrome for each nibble. -/
theorem eq_reverse_append_of_bitRev_eq_self (b : Byte) (h : bitRev b = b) :
    b = (b.extractLsb' 0 4).reverse ++ b.extractLsb' 0 4 := by
  refine BitVec.eq_of_getLsbD_eq fun i hi => ?_
  have mirror : b.getLsbD i = b.getLsbD (7 - i) := by rw [← bitRev_getLsbD b i hi, h]
  rw [BitVec.getLsbD_append]
  by_cases low : i < 4
  · simp [low]
  · have high : i - 4 < 4 := by omega
    have within : 4 - 1 - (i - 4) < 4 := by omega
    have reflect : 4 - 1 - (i - 4) = 7 - i := by omega
    rw [if_neg low, BitVec.getLsbD_reverse, BitVec.getMsbD, BitVec.getLsbD_extractLsb', mirror, ← reflect]
    simp only [high, within, decide_true, Bool.true_and, Nat.zero_add]

theorem bitRev_eq_self_iff (b : Byte) : bitRev b = b ↔ b ∈ palindromes := by
  have ofNibble : ∀ n : BitVec 4, n.reverse ++ n ∈ palindromes := by decide
  have listed : ∀ p ∈ palindromes, bitRev p = p := by decide
  refine ⟨fun h => ?_, listed b⟩
  rw [eq_reverse_append_of_bitRev_eq_self b h]
  exact ofNibble _

/-- R100 fixes the byte of a value in 0..99. -/
theorem eq_bcdPack_of_encodes (v : Nat) (d : Byte) (h : v ≤ 99) (e : Encodes v d) : d = bcdPack v :=
  BitVec.eq_of_toNat_eq (e.trans (encodes_bcdPack v h).symm)

/-- The values whose BCD byte is a palindrome (R111 (e)): those the palindromes with two decimal digits decode to. -/
theorem bitRev_bcdPack_eq_self_iff (v : Nat) (h : v ≤ 99) :
    bitRev (bcdPack v) = bcdPack v ↔ v ∈ [0, 18, 24, 42, 66, 81, 99] := by
  have decoded : ∀ p ∈ palindromes, bcdValid p = true → (bcdDec p).toNat ∈ [0, 18, 24, 42, 66, 81, 99] := by decide
  have listed : ∀ u ∈ [0, 18, 24, 42, 66, 81, 99], bitRev (bcdPack u) = bcdPack u := by decide
  refine ⟨fun palindrome => ?_, listed v⟩
  rw [← bcdDec_bcdPack v h]
  exact decoded _ ((bitRev_eq_self_iff _).1 palindrome) ((bcdValid_iff_decimal _).2 (decimal_bcdPack v h))

/-! ### The address bytes -/

/-- The reversal takes the read flag to bit 7. -/
theorem bitRev_directionByte (rd : Bool) : bitRev (if rd then readFlag else 0) = if rd then 0x80 else 0 := by
  cases rd <;> decide

/-- The source's second description of an address byte (R112): reverse first, then set the direction on the wire. -/
theorem makeAddr_eq_bitRev_or (nat : NatMap) (r : RegId) (rd : Bool) :
    makeAddr nat r rd = bitRev (nat.get r) ||| if rd then 0x80 else 0 := by
  rw [makeAddr, bitRev_or, bitRev_directionByte]

theorem makeAddr_false (nat : NatMap) (r : RegId) : makeAddr nat r false = bitRev (nat.get r) := by
  rw [makeAddr_eq_bitRev_or]
  exact BitVec.or_zero

theorem makeAddr_true (nat : NatMap) (r : RegId) : makeAddr nat r true = makeAddr nat r false ||| 0x80 := by
  rw [makeAddr_false, makeAddr_eq_bitRev_or, if_pos rfl]

/-- The write address of SECONDS (R113): the reversal of the one constant R75 (a) fixes. -/
theorem makeAddr_seconds_false (p : Params) (w : p.wf) : makeAddr p.nat .seconds false = 0x01 := by
  have fixed : p.nat.get .seconds = 0x80 := ((wf_iff p).1 w).1
  rw [makeAddr_false, fixed]
  decide

theorem makeAddr_seconds_true (p : Params) (w : p.wf) : makeAddr p.nat .seconds true = 0x81 := by
  rw [makeAddr_true, makeAddr_seconds_false p w]
  decide

/-! ### The obligations -/

/-- BIT_REV as its next state (R114): only `RES_BYTE` and `ERR` are written. -/
theorem exec_bitRev (b : Byte) (s : State) :
    exec (.bitRev b) s = .next { s with regs := { s.regs with resByte := some (bitRev b), err := .ok } } := rfl

/-- Settles O17: the byte is `bitRev`, each of its bits given by `bitRev_getLsbD`. -/
theorem bitRevReversesBits : Obligations.BitRevReversesBits :=
  fun b s => ⟨bitRev b, bitRev_getLsbD b, exec_bitRev b s⟩

/-- Settles O18: one law per clause; the last goes through the one byte that encodes `v`. -/
theorem bitRevLaws : Obligations.BitRevLaws := by
  refine ⟨bitRev_bitRev, bitRev_bijective, fun a b => ⟨bitRev_or a b, bitRev_and a b, bitRev_not a⟩, countP_bitRev,
    bitRev_eq_self_iff, fun v d h e => ?_⟩
  rw [eq_bcdPack_of_encodes v d h e]
  exact bitRev_bcdPack_eq_self_iff v h

/-- Settles O21: the first description is the definition, and the reversal moves its flag to bit 7. The
equations do not use R75 (b): it says that the OR sets a bit that was 0, which `makeAddr_getLsbD_seven` needs. -/
theorem addressDescriptionsAgree : Obligations.AddressDescriptionsAgree :=
  fun p r rd _ => ⟨rfl, makeAddr_eq_bitRev_or p.nat r rd, makeAddr_true p.nat r⟩

/-- Settles O20: MAKE_ADDR writes `makeAddr`, and R75 fixes the constant of SECONDS. -/
theorem secondsAddressBytes : Obligations.SecondsAddressBytes := by
  intro s w
  rw [exec_makeAddr, exec_makeAddr, makeAddr_seconds_true s.params w, makeAddr_seconds_false s.params w]
  exact ⟨rfl, rfl⟩

end Sys2Proof.Machine
end

section
/-! SUPPORT. The family 60_exceptions: an illegal word (R73, R162) and INIT issued again (R164). -/

namespace Sys2Proof

/-! ### A word as the fields of its format (R72) -/

theorem Half.fieldsZ (w : Half) : w.opc ++ w.extractLsb' 0 12 = w := by
  rw [Half.opc, BitVec.extractLsb'_append_extractLsb'_eq_extractLsb' (by decide), BitVec.extractLsb'_eq_self]

theorem Half.fieldsB (w : Half) : w.opc ++ w.extractLsb' 8 4 ++ w.imm8 = w := by
  rw [Half.opc, Half.imm8, BitVec.extractLsb'_append_extractLsb'_eq_extractLsb' (by decide),
    BitVec.extractLsb'_append_extractLsb'_eq_extractLsb' (by decide), BitVec.extractLsb'_eq_self]

theorem Half.fieldsA (w : Half) :
    w.opc ++ w.extractLsb' 9 3 ++ BitVec.ofBool (w.getLsbD 8) ++ w.extractLsb' 4 4 ++ w.extractLsb' 0 4 = w := by
  have direction : BitVec.ofBool (w.getLsbD 8) = w.extractLsb' 8 1 := by ext i hi; simp [show i = 0 by omega]
  rw [direction, Half.opc, BitVec.extractLsb'_append_extractLsb'_eq_extractLsb' (by decide),
    BitVec.extractLsb'_append_extractLsb'_eq_extractLsb' (by decide),
    BitVec.extractLsb'_append_extractLsb'_eq_extractLsb' (by decide),
    BitVec.extractLsb'_append_extractLsb'_eq_extractLsb' (by decide), BitVec.extractLsb'_eq_self]

/-! ### What the decoder accepts is the word its instruction is encoded with -/

theorem RegId.id_of_ofId (n : BitVec 4) (r : RegId) : RegId.ofId n = some r → r.id = n := by
  revert n
  cases r <;> decide

theorem decodeZ_word {j i : Instr} {w : Half} (opc : BitVec 4) (ho : w.opc.toNat = opc.toNat)
    (word : j.word = wordZ opc) (h : decodeZ j w = .ok i) : i.word = w := by
  obtain rfl := BitVec.eq_of_toNat_eq ho
  unfold decodeZ at h
  split at h
  case isTrue zero =>
    obtain rfl := Except.ok.inj h
    have fields := w.fieldsZ
    rw [zero] at fields
    exact word.trans fields
  case isFalse => cases h

theorem decodeB_word {op : Byte → Instr} {i : Instr} {w : Half} (opc : BitVec 4) (ho : w.opc.toNat = opc.toNat)
    (word : ∀ v, (op v).word = wordB opc v) (h : decodeB op w = .ok i) : i.word = w := by
  obtain rfl := BitVec.eq_of_toNat_eq ho
  unfold decodeB at h
  split at h
  case isTrue zero =>
    obtain rfl := Except.ok.inj h
    have fields := w.fieldsB
    rw [zero] at fields
    exact (word _).trans fields
  case isFalse => cases h

theorem decodeA_word {op : Bool → RegId → Instr} {i : Instr} {w : Half} (opc : BitVec 4)
    (ho : w.opc.toNat = opc.toNat) (word : ∀ rd r, (op rd r).word = wordA opc rd r) (h : decodeA op w = .ok i) :
    i.word = w := by
  obtain rfl := BitVec.eq_of_toNat_eq ho
  unfold decodeA at h
  split at h
  case isTrue zero =>
    obtain ⟨zeroHigh, zeroLow⟩ := zero
    split at h
    case h_1 r named =>
      obtain rfl := Except.ok.inj h
      have fields := w.fieldsA
      rw [zeroHigh, zeroLow, ← RegId.id_of_ofId _ _ named] at fields
      exact (word _ _).trans fields
    case h_2 => cases h
  case isFalse => cases h

/-- Encoding what was read gives the word back. -/
theorem decode_word (c : Command) (i : Instr) (h : decode c = .ok i) : i.word = c.cmd := by
  unfold decode at h
  split at h
  case h_1 opc => exact decodeB_word 0x1 opc (fun _ => rfl) h
  case h_2 opc => exact decodeB_word 0x2 opc (fun _ => rfl) h
  case h_3 opc => exact decodeB_word 0x3 opc (fun _ => rfl) h
  case h_4 opc => exact decodeA_word 0x4 opc (fun _ _ => rfl) h
  case h_5 opc => exact decodeZ_word 0x5 opc rfl h
  case h_6 opc => exact decodeZ_word 0x6 opc rfl h
  case h_7 opc => exact decodeB_word 0x7 opc (fun _ => rfl) h
  case h_8 opc => exact decodeZ_word 0x8 opc rfl h
  case h_9 opc => exact decodeZ_word 0x9 opc rfl h
  case h_10 opc => exact decodeZ_word 0xA opc rfl h
  case h_11 => cases h

/-- The word of every instruction is legal (R73). -/
theorem Instr.word_legal (i : Instr) : i.word.legal = true := by
  have opcodeAndLegal : Laws.WordLegal.Statement i := by
    cases i with
    | bcdEnc v => exact Laws.WordLegal.bcdEnc v
    | bcdDec b => exact Laws.WordLegal.bcdDec b
    | bitRev b => exact Laws.WordLegal.bitRev b
    | makeAddr rd r => exact Laws.WordLegal.makeAddr rd r
    | init => exact Laws.WordLegal.init
    | getSeconds => exact Laws.WordLegal.getSeconds
    | setSeconds v => exact Laws.WordLegal.setSeconds v
    | getClock => exact Laws.WordLegal.getClock
    | getCalClock => exact Laws.WordLegal.getCalClock
    | setCalClock p => exact Laws.WordLegal.setCalClock p
  exact opcodeAndLegal.1

theorem legal_of_decode_ok (c : Command) (i : Instr) (h : decode c = .ok i) : c.cmd.legal = true :=
  decode_word c i h ▸ i.word_legal

end Sys2Proof

namespace Sys2Proof.Machine

/-! ### The faults -/

/-- An error that is a fault, as its next state: `ERR` is the code and `FAULT` is 1, whatever it was (R160, R168). -/
theorem State.raise_of_isFault (e : ErrCode) (s : State) (h : e.isFault = true) :
    s.raise e = { s with regs := { s.regs with err := e, fault := true } } := by
  simp only [State.raise, Regs.raise, h, Bool.or_true]

/-- The decoder rejects an illegal word, so the block takes the one error entry (R162). -/
theorem issue_of_not_legal (c : Command) (s : State) (h : c.cmd.legal = false) : issue c s = .next s.illegal := by
  cases d : decode c with
  | ok i => rw [legal_of_decode_ok c i d] at h; cases h
  | error _ => simp only [issue, d]

/-- INIT in UNINIT ends in TransportError, still in UNINIT, or in `OK` and READY (R121, R122). -/
theorem initBody_outcome (s : State) (h : s.regs.initState = .uninit) :
    ((initBody s).regs.err = .transportError ∧ (initBody s).regs.initState = .uninit) ∨
      ((initBody s).regs.err = .ok ∧ (initBody s).regs.initState = .ready) := by
  obtain ⟨-, -, failed | ⟨succeeded, -⟩⟩ := initBody_spec s
  · rw [failed]
    exact .inl ⟨rfl, h⟩
  · rw [succeeded]
    exact .inr ⟨rfl, rfl⟩

/-! ### The obligations -/

/-- Settles O6: a word that decodes is legal, so an illegal one takes IllegalCommand, which is a fault. -/
theorem illegalWordFaults : Obligations.IllegalWordFaults := by
  intro c s h
  rw [issue_of_not_legal c s h, State.illegal, State.raise_of_isFault _ s rfl]

/-- Settles O25: in READY the fault is taken before any call; in UNINIT the body's two outcomes exclude it. -/
theorem secondInitFaults : Obligations.SecondInitFaults := by
  refine ⟨fun s ready => ?_, fun s t uninit h => ?_⟩
  · rw [exec_init_ready s ready, State.raise_of_isFault _ s rfl]
  · rw [exec_init_uninit s uninit] at h
    cases h
    obtain ⟨err, state⟩ | ⟨err, -⟩ := initBody_outcome s uninit
    · exact ⟨by simp [err], fun _ => state⟩
    · exact ⟨by simp [err], fun failed => absurd err failed⟩

end Sys2Proof.Machine
end

section
/-! SUPPORT. The encodings (R70 to R84): the decoder reads the encoder's words back, and accepts the legal words
alone. -/

namespace Sys2Proof

/-! ### The fields of a word as the encoder builds it (R72) -/

theorem wordZ_operand (opc : BitVec 4) : (wordZ opc).extractLsb' 0 12 = 0 :=
  BitVec.extractLsb'_append_eq_right

theorem wordB_mustBeZero (opc : BitVec 4) (v : Byte) : (wordB opc v).extractLsb' 8 4 = 0 :=
  (BitVec.extractLsb'_append_eq_of_le (by decide)).trans BitVec.extractLsb'_append_eq_right

theorem wordB_imm8 (opc : BitVec 4) (v : Byte) : (wordB opc v).imm8 = v :=
  BitVec.extractLsb'_append_eq_right

theorem wordA_reg (opc : BitVec 4) (rd : Bool) (r : RegId) : (wordA opc rd r).extractLsb' 0 4 = r.id :=
  BitVec.extractLsb'_append_eq_right

/-- Above `REG`, a word of format A is the bits its must-be-zero and direction fields are cut from. -/
theorem wordA_above_reg (opc : BitVec 4) (rd : Bool) (r : RegId) (i n : Nat) :
    (wordA opc rd r).extractLsb' (4 + i) n = (opc ++ 0#3 ++ BitVec.ofBool rd ++ 0#4).extractLsb' i n := by
  refine (BitVec.extractLsb'_append_eq_of_le (by omega)).trans ?_
  rw [Nat.add_sub_cancel_left]

theorem wordA_mustBeZeroLow (opc : BitVec 4) (rd : Bool) (r : RegId) : (wordA opc rd r).extractLsb' 4 4 = 0 :=
  (wordA_above_reg opc rd r 0 4).trans BitVec.extractLsb'_append_eq_right

theorem wordA_direction (opc : BitVec 4) (rd : Bool) (r : RegId) : (wordA opc rd r).getLsbD 8 = rd := by
  unfold wordA
  rw [BitVec.getLsbD_append, BitVec.getLsbD_append, BitVec.getLsbD_append]
  simp

theorem wordA_mustBeZeroHigh (opc : BitVec 4) (rd : Bool) (r : RegId) : (wordA opc rd r).extractLsb' 9 3 = 0 := by
  refine (wordA_above_reg opc rd r 5 3).trans ?_
  rw [BitVec.extractLsb'_append_eq_of_le (by decide), BitVec.extractLsb'_append_eq_of_le (by decide)]
  exact BitVec.extractLsb'_append_eq_right

theorem RegId.ofId_id (r : RegId) : RegId.ofId r.id = some r := by
  cases r <;> decide

/-! ### Each format reads its own words back -/

theorem decodeZ_wordZ (i : Instr) (opc : BitVec 4) : decodeZ i (wordZ opc) = .ok i :=
  if_pos (wordZ_operand opc)

theorem decodeB_wordB (op : Byte → Instr) (opc : BitVec 4) (v : Byte) : decodeB op (wordB opc v) = .ok (op v) := by
  rw [decodeB, if_pos (wordB_mustBeZero opc v), wordB_imm8]

theorem decodeA_wordA (op : Bool → RegId → Instr) (opc : BitVec 4) (rd : Bool) (r : RegId) :
    decodeA op (wordA opc rd r) = .ok (op rd r) := by
  rw [decodeA, if_pos ⟨wordA_mustBeZeroHigh opc rd r, wordA_mustBeZeroLow opc rd r⟩]
  simp only [wordA_reg, RegId.ofId_id, wordA_direction]

/-- The word of an instruction carries the opcode of its row (R71). -/
theorem Instr.word_opc (i : Instr) : Half.opc i.word = i.opcode := by
  cases i with
  | bcdEnc v => exact (Laws.WordLegal.bcdEnc v).2
  | bcdDec b => exact (Laws.WordLegal.bcdDec b).2
  | bitRev b => exact (Laws.WordLegal.bitRev b).2
  | makeAddr rd r => exact (Laws.WordLegal.makeAddr rd r).2
  | init => exact Laws.WordLegal.init.2
  | getSeconds => exact Laws.WordLegal.getSeconds.2
  | setSeconds v => exact (Laws.WordLegal.setSeconds v).2
  | getClock => exact Laws.WordLegal.getClock.2
  | getCalClock => exact Laws.WordLegal.getCalClock.2
  | setCalClock p => exact (Laws.WordLegal.setCalClock p).2

/-- Decoding goes to the row of the opcode (R81), and the row's format reads the word back. -/
theorem decode_encode (i : Instr) : decode (encode i) = .ok i := by
  have opcode : Half.opc (encode i).cmd = i.opcode := i.word_opc
  unfold decode
  rw [opcode]
  cases i with
  | bcdEnc v => exact decodeB_wordB .bcdEnc 0x1 v
  | bcdDec b => exact decodeB_wordB .bcdDec 0x2 b
  | bitRev b => exact decodeB_wordB .bitRev 0x3 b
  | makeAddr rd r => exact decodeA_wordA .makeAddr 0x4 rd r
  | init => exact decodeZ_wordZ .init 0x5
  | getSeconds => exact decodeZ_wordZ .getSeconds 0x6
  | setSeconds v => exact decodeB_wordB .setSeconds 0x7 v
  | getClock => exact decodeZ_wordZ .getClock 0x8
  | getCalClock => exact decodeZ_wordZ .getCalClock 0x9
  | setCalClock p => exact decodeZ_wordZ (.setCalClock p) 0xA

/-- Settles O1: each instruction's word has its row's opcode, and the row's format reads its own words back. -/
theorem decodeInvertsEncode : Obligations.DecodeInvertsEncode := decode_encode

/-! ### What the decoder accepts -/

/-- SET_CAL_CLOCK alone reads the ports (R30), and it reads them as they were issued. -/
theorem ports_of_decode_setCalClock (c : Command) (p : Ports) (h : decode c = .ok (.setCalClock p)) :
    p = c.ports := by
  have opcode : c.cmd.opc = 0xA := by rw [← decode_word c _ h]; exact Instr.word_opc (.setCalClock p)
  have row : decode c = decodeZ (.setCalClock c.ports) c.cmd := by rw [decode, opcode]; rfl
  rw [row, decodeZ] at h
  split at h
  · cases h; rfl
  · cases h

/-- Settles O2: `decode_word` is the word, and the only decoded SET_CAL_CLOCK is that of the issued ports. -/
theorem encodeInvertsDecode : Obligations.EncodeInvertsDecode := by
  intro c i h
  refine ⟨decode_word c i h, fun p hp => ?_⟩
  subst hp
  exact ports_of_decode_setCalClock c p h

/-- A field inside a row's mask is the row's own (R72). -/
theorem field_of_masked {w mask row : Half} (h : w &&& mask = row) {i n : Nat}
    (inside : mask.extractLsb' i n = BitVec.allOnes n) : w.extractLsb' i n = row.extractLsb' i n := by
  rw [← h, BitVec.extractLsb'_and, inside, BitVec.and_allOnes]

theorem decodeZ_of_masked (i : Instr) {w row : Half} (h : w &&& 0xFFFF = row) (zero : row.extractLsb' 0 12 = 0) :
    ∃ j, decodeZ i w = .ok j :=
  ⟨i, if_pos ((field_of_masked h (by decide)).trans zero)⟩

theorem decodeB_of_masked (op : Byte → Instr) {w row : Half} (h : w &&& 0xFF00 = row)
    (zero : row.extractLsb' 8 4 = 0) : ∃ j, decodeB op w = .ok j :=
  ⟨op w.imm8, if_pos ((field_of_masked h (by decide)).trans zero)⟩

/-- Only the ids above 10 are reserved (R74). -/
theorem RegId.ofId_of_le (n : BitVec 4) (h : n.toNat ≤ 10) : ∃ r, RegId.ofId n = some r :=
  ⟨_, List.getElem?_eq_getElem (Nat.lt_succ_of_le h : n.toNat < RegId.all.length)⟩

theorem Half.reg_toNat (w : Half) : (w.extractLsb' 0 4).toNat = (w &&& 0x000F).toNat := by
  rw [BitVec.toNat_and, BitVec.extractLsb'_toNat]
  exact (Nat.and_two_pow_sub_one_eq_mod w.toNat 4).symm

theorem decodeA_of_masked (op : Bool → RegId → Instr) {w : Half} (h : w &&& 0xFEF0 = 0x4000)
    (named : w.reservedReg = false) : ∃ j, decodeA op w = .ok j := by
  have opcode : w &&& 0xF000 = 0x4000 := by
    calc w &&& 0xF000 = (w &&& 0xFEF0) &&& 0xF000 := by rw [BitVec.and_assoc]; rfl
      _ = 0x4000 := by rw [h]; rfl
  have small : (w.extractLsb' 0 4).toNat ≤ 10 := by
    rw [Half.reg_toNat]
    simpa only [Half.reservedReg, opcode, beq_self_eq_true, Bool.true_and, decide_eq_false_iff_not, not_lt] using named
  obtain ⟨r, hr⟩ := RegId.ofId_of_le _ small
  have zero : w.extractLsb' 9 3 = 0 ∧ w.extractLsb' 4 4 = 0 :=
    ⟨field_of_masked h (by decide), field_of_masked h (by decide)⟩
  exact ⟨op (w.getLsbD 8) r, by rw [decodeA, if_pos zero, hr]⟩

/-- A word that matches a row and names no reserved register is decoded by that row's format (R72, R81). -/
theorem decode_of_row (c : Command) (row : Half × Half) (listed : row ∈ commandRows)
    (h : c.cmd &&& row.2 = row.1) (named : c.cmd.reservedReg = false) : ∃ i, decode c = .ok i := by
  have masks : ∀ row ∈ commandRows, row.2.extractLsb' 12 4 = BitVec.allOnes 4 := by simp [commandRows]
  have opcode : c.cmd.opc = row.1.extractLsb' 12 4 := field_of_masked h (masks row listed)
  unfold decode
  rw [opcode]
  simp only [commandRows, List.mem_cons, List.not_mem_nil, or_false] at listed
  rcases listed with rfl | rfl | rfl | rfl | rfl | rfl | rfl | rfl | rfl | rfl
  · exact decodeB_of_masked .bcdEnc h (by decide)
  · exact decodeB_of_masked .bcdDec h (by decide)
  · exact decodeB_of_masked .bitRev h (by decide)
  · exact decodeA_of_masked .makeAddr h named
  · exact decodeZ_of_masked .init h (by decide)
  · exact decodeZ_of_masked .getSeconds h (by decide)
  · exact decodeB_of_masked .setSeconds h (by decide)
  · exact decodeZ_of_masked .getClock h (by decide)
  · exact decodeZ_of_masked .getCalClock h (by decide)
  · exact decodeZ_of_masked (.setCalClock c.ports) h (by decide)

/-- Settles O3: what decodes is the legal word of an instruction, and a legal word matches a row of the opcode map. -/
theorem decodesExactlyLegalWords : Obligations.DecodesExactlyLegalWords := by
  refine fun c => ⟨fun ⟨i, h⟩ => legal_of_decode_ok c i h, fun legal => ?_⟩
  obtain ⟨matched, named⟩ := (Bool.and_eq_true _ _).mp legal
  obtain ⟨row, listed, h⟩ := List.any_eq_true.mp matched
  exact decode_of_row c row listed (beq_iff_eq.mp h) (by simpa using named)

/-- Settles O4: each word evaluated by the decoder. -/
theorem specWordsDecode : Obligations.SpecWordsDecode := by
  unfold Obligations.SpecWordsDecode
  decide

end Sys2Proof
end

section
/-! SUPPORT. The rules of the whole machine: one step for each move of the host, what any step or command keeps, and the
invariant (R22 to R29, R47, R160 to R169, R180 to R184). -/

namespace Sys2Proof.Machine

/-! ### A step by its move -/

theorem step_of_move (s : State) (m : HostMove) (rest : List HostMove) (w : s.params.wf) (h : s.inputs = m :: rest) :
    step s = serve m { s with inputs := rest } := by
  simp only [step, w, if_true, serveNext, h]

/-- Settles O5: the step serves the command, and the decoder names it. -/
theorem stepRunsCommand : Obligations.StepRunsCommand := by
  intro s c rest i w h d
  rw [step_of_move s _ rest w h]
  simp only [serve, issue, d]

/-- Settles O7: the step serves the reset input. -/
theorem resetInputResetsBlock : Obligations.ResetInputResetsBlock :=
  fun s rest w h => step_of_move s .reset rest w h

/-- Settles O8: the reset registers, field by field. -/
theorem resetValues : Obligations.ResetValues := ⟨rfl, rfl, rfl, rfl, by decide⟩

/-- Settles O10: with an empty queue nothing is served. -/
theorem waitsForMove : Obligations.WaitsForMove := by
  intro s w h
  simp only [step, w, if_true, serveNext, h]

/-! ### The host's reads -/

/-- A register whose value the host sees is read, and only the queue moves on (R24). -/
theorem State.readsAs_of_hostValue (s : State) (w : s.params.wf) (r : HostReg) (v : Half)
    (h : s.regs.hostValue r = some v) : s.ReadsAs r v.toNat := by
  refine ⟨⟨v, h, rfl⟩, fun rest => ?_⟩
  rw [step_of_move { s with inputs := .read r :: rest } _ rest w rfl]
  simp only [serve, State.hostRead, h]

/-- A register that holds no value is read as a fault (R29). -/
theorem State.readFaults_of_hostValue (s : State) (w : s.params.wf) (r : HostReg) (h : s.regs.hostValue r = none) :
    s.ReadFaults r := by
  refine ⟨h, fun rest => ?_⟩
  rw [step_of_move { s with inputs := .read r :: rest } _ rest w rfl]
  simp only [serve, State.hostRead, h]

/-- A register the host sees zero-extended is read as what it holds: nothing of at most 16 bits is cut off. -/
theorem State.readsRegister_of_hostValue {n : Nat} (s : State) (w : s.params.wf) (r : HostReg) (o : Option (BitVec n))
    (fits : n ≤ 16) (h : s.regs.hostValue r = o.map (·.zeroExtend 16)) : s.ReadsRegister r o := by
  refine ⟨fun empty => s.readFaults_of_hostValue w r (by rw [h, empty]; rfl), fun v holds => ?_⟩
  have seen : s.regs.hostValue r = some (v.zeroExtend 16) := by rw [h, holds]; rfl
  have whole : (v.zeroExtend 16).toNat = v.toNat := BitVec.toNat_setWidth_of_le fits
  exact whole ▸ s.readsAs_of_hostValue w r _ seen

/-- Settles O12: `STATUS` always has a value, and each result register is seen zero-extended. -/
theorem hostReadOfNoValueFaults : Obligations.HostReadOfNoValueFaults := by
  intro s w
  have status : (s.regs.status.zeroExtend 16).toNat = s.regs.status.toNat := BitVec.toNat_setWidth_of_le (by decide)
  have year : s.regs.hostValue .resYear = s.regs.resYear.map (·.zeroExtend 16) := by
    simp [Regs.hostValue]
  have byte : ∀ r o, s.regs.hostValue r = o.map (·.zeroExtend 16) → s.ReadsRegister r (o : Option Byte) :=
    fun r o => s.readsRegister_of_hostValue w r o (by decide)
  exact ⟨status ▸ s.readsAs_of_hostValue w .status _ rfl, byte .resByte _ rfl, byte .resSec _ rfl, byte .resMin _ rfl,
    byte .resHour _ rfl, s.readsRegister_of_hostValue w .resYear _ (by decide) year, byte .resMonth _ rfl,
    byte .resDate _ rfl, byte .resDay _ rfl⟩

/-! ### The fields of `STATUS` -/

theorem InitState.bit_eq (i : InitState) : i.bit = decide (i = .ready) := by
  cases i <;> rfl

theorem Regs.status_fault (r : Regs) : r.status.getLsbD 3 = r.fault := by
  unfold Regs.status
  rw [BitVec.getLsbD_append, BitVec.getLsbD_append]
  simp

theorem Regs.status_initState (r : Regs) : r.status.getLsbD 4 = decide (r.initState = .ready) := by
  unfold Regs.status
  rw [BitVec.getLsbD_append, BitVec.getLsbD_append, BitVec.getLsbD_append]
  simp [InitState.bit_eq]

theorem Regs.status_reserved (r : Regs) : r.status.extractLsb' 5 3 = 0 := by
  unfold Regs.status
  rw [BitVec.extractLsb'_append_eq_of_le (by decide), BitVec.extractLsb'_append_eq_of_le (by decide)]
  exact BitVec.extractLsb'_append_eq_left

/-- Settles O13: each field is cut from the concatenation where R24 puts it; the codes are the table's. -/
theorem statusLayout : Obligations.StatusLayout :=
  ⟨fun r => ⟨BitVec.extractLsb'_append_eq_right, r.status_fault, r.status_initState, r.status_reserved⟩,
    rfl, rfl, rfl, rfl, rfl, rfl⟩

/-! ### What a command's registers can be (`CommandRegs`), read off -/

section
variable {p : Params} {i : Instr} {r r' : Regs}

/-- `FAULT` after a command is what it was or what its code is (R23, R160). -/
theorem CommandRegs.fault (h : CommandRegs p i r r') : r'.fault = (r.fault || r'.err.isFault) := by
  cases h with
  | error e => rfl
  | plain | ready | byte | clock | calendar => exact (Bool.or_false _).symm

/-- An error writes nothing but `ERR` and `FAULT` (R168). -/
theorem CommandRegs.eq_raise_of_err (h : CommandRegs p i r r') (ne : r'.err ≠ .ok) : r' = r.raise r'.err := by
  cases h with
  | error e => rfl
  | plain | ready | byte | clock | calendar => exact absurd rfl ne

/-- `INIT_STATE` moves only when INIT succeeds (R22). -/
theorem CommandRegs.initState (h : CommandRegs p i r r') :
    r'.initState = r.initState ∨ (i = .init ∧ r.initState = .uninit ∧ r'.initState = .ready ∧ r'.err = .ok) := by
  cases h with
  | ready isInit u => exact .inr ⟨isInit, u, rfl, rfl⟩
  | error | plain | byte | clock | calendar => exact .inl rfl

/-- No command takes READY back to UNINIT (R22). -/
theorem CommandRegs.stays_ready (h : CommandRegs p i r r') (ready : r.initState = .ready) : r'.initState = .ready := by
  obtain kept | ⟨-, -, moved, -⟩ := h.initState
  · exact kept.trans ready
  · exact moved

theorem CommandRegs.writes_resByte (h : CommandRegs p i r r') (ne : r'.resByte ≠ r.resByte) :
    i.writesByte = true ∧ r'.err = .ok := by
  cases h with
  | byte v writes => exact ⟨writes, rfl⟩
  | error | plain | ready | clock | calendar => exact absurd rfl ne

theorem CommandRegs.writes_clk (h : CommandRegs p i r r') (ne : r'.clk ≠ r.clk) :
    (i = .getClock ∨ i = .getCalClock) ∧ r'.err = .ok := by
  cases h with
  | clock _ _ _ is => exact ⟨.inl is, rfl⟩
  | calendar _ _ _ _ _ _ _ is => exact ⟨.inr is, rfl⟩
  | error | plain | ready | byte => exact absurd rfl ne

theorem CommandRegs.writes_cal (h : CommandRegs p i r r') (ne : r'.cal ≠ r.cal) :
    i = .getCalClock ∧ r'.err = .ok := by
  cases h with
  | calendar _ _ _ _ _ _ _ is => exact ⟨is, rfl⟩
  | error | plain | ready | byte | clock => exact absurd rfl ne

/-! ### The invariant -/

/-- Whatever `ERR` and `FAULT` were, after a command they agree (R23, R160, R169). -/
theorem CommandRegs.errInv (h : CommandRegs p i r r') : r'.errInv := by
  cases h with
  | error e _ un rd => exact ⟨fun fault => (Bool.or_eq_true _ _).mpr (.inr fault), un, rd⟩
  | plain | ready | byte | clock | calendar => exact ⟨nofun, nofun, nofun⟩

/-- A decoded value is at most 165 (R101). -/
theorem atMost_bcdDec (b : Byte) : atMost 165 (some (bcdDec b)) = true :=
  decide_eq_true (bcdDec_le b)

/-- A decoded year is 2000 to 2165 (R141). -/
theorem yearOf_bcdDec_range (b : Byte) : 2000 ≤ (yearOf (bcdDec b)).toNat ∧ (yearOf (bcdDec b)).toNat ≤ 2165 := by
  have := bcdDec_le b
  rw [yearOf_toNat]
  omega

theorem CommandRegs.resInv (h : CommandRegs p i r r') (inv : r.resInv p) : r'.resInv p := by
  cases h with
  | error | plain | ready | byte => exact inv
  | clock a b c =>
    obtain ⟨-, -, -, -, -, hm, hd, hw, hy, hy', hm', hd', hw', -⟩ := inv
    exact ⟨rfl, rfl, atMost_bcdDec a, atMost_bcdDec b, atMost_bcdDec c, hm, hd, hw, hy, hy', hm', hd', hw',
      fun _ => rfl⟩
  | calendar a b c y m d w =>
    obtain ⟨low, high⟩ := yearOf_bcdDec_range y
    refine ⟨rfl, rfl, atMost_bcdDec a, atMost_bcdDec b, atMost_bcdDec c, rfl, rfl, rfl, decide_eq_true high, ?_,
      atMost_bcdDec m, atMost_bcdDec d, fun bcd => ?_, fun _ => rfl⟩
    · rintro _ ⟨⟩
      exact low
    · simp only [Regs.complete, decodeDay, bcd, atMost_bcdDec]

end

/-- The registers after reset have both parts of the invariant. -/
theorem Regs.reset_inv (p : Params) : Regs.reset.errInv ∧ Regs.reset.resInv p := by
  simp [Regs.errInv, Regs.resInv, Regs.reset, ErrCode.isFault, atMost]

/-- A command keeps the invariant. -/
theorem exec_inv (i : Instr) (s t : State) (h : exec i s = .next t) (inv : s.Inv) : t.Inv := by
  obtain ⟨-, res, listed, ram⟩ := inv
  obtain ⟨es, run, regs, -⟩ := exec_spec i s t h
  refine ⟨regs.errInv, run.params ▸ regs.resInv res, fun e he => ?_, run.params ▸ exec_ramWf i s t h _ ram⟩
  rw [run.params]
  rw [run.history] at he
  obtain old | new := List.mem_append.mp he
  · exact listed e old
  · exact run.listed e new

/-- An illegal word keeps the invariant: its code is a fault and it is not one of the contract faults. -/
theorem State.illegal_inv (s : State) (inv : s.Inv) : s.illegal.Inv := by
  obtain ⟨-, res, listed, ram⟩ := inv
  exact ⟨⟨fun _ => by simp [ErrCode.isFault], nofun, nofun⟩, res, listed, ram⟩

theorem State.blockReset_inv (s : State) (inv : s.Inv) : s.blockReset.Inv := by
  obtain ⟨-, -, listed, ram⟩ := inv
  obtain ⟨err, res⟩ := Regs.reset_inv s.params
  exact ⟨err, res, listed, ram⟩

/-- Settles O48: each kind of step keeps the four parts. -/
theorem stepKeepsInv : Obligations.StepKeepsInv := by
  intro s t inv h
  have moved : ∀ rest, State.Inv { s with inputs := rest } := fun _ => inv
  obtain ⟨-, ⟨-, rfl⟩ | ⟨c, i, rest, -, -, he⟩ | ⟨c, e, rest, -, -, rfl⟩ | ⟨rest, -, rfl⟩ | ⟨r, rest, -, rfl⟩⟩ :=
    step_spec s t h
  · exact inv
  · exact exec_inv i _ t he (moved rest)
  · exact State.illegal_inv _ (moved rest)
  · exact State.blockReset_inv _ (moved rest)
  · exact moved rest

/-- Settles O49: the registers as above; there is no event and no chip. -/
theorem resetHasInv : Obligations.ResetHasInv := by
  obtain ⟨err, res⟩ := Regs.reset_inv State.reset.params
  exact ⟨err, res, nofun, nofun⟩

/-! ### What every command does -/

/-- Settles O51: an error only raises. -/
theorem errorWritesNoResult : Obligations.ErrorWritesNoResult := by
  intro i s t h ne
  obtain ⟨-, -, regs, -⟩ := exec_spec i s t h
  rw [regs.eq_raise_of_err ne]
  exact ⟨rfl, rfl⟩

/-- Settles O52: one reading of `CommandRegs` for each group of result registers. -/
theorem resultsWrittenByTheirCommands : Obligations.ResultsWrittenByTheirCommands := by
  intro i s t h
  obtain ⟨-, -, regs, -⟩ := exec_spec i s t h
  exact ⟨regs.writes_resByte, regs.writes_clk, regs.writes_cal⟩

/-- Settles O53: the same of every way the registers can end. -/
theorem faultFollowsErr : Obligations.FaultFollowsErr := by
  intro i s t h
  obtain ⟨-, -, regs, -⟩ := exec_spec i s t h
  exact regs.fault

theorem State.Undisturbed.ran {s t : State} (u : s.Undisturbed t) : s.Ran 0 t :=
  ⟨u.params, u.inputs, u.ram, congrFun u.okAt⟩

/-- The datapath commands complete in every state, make no call and touch no chip (R163). -/
theorem exec_datapath (i : Instr) (s : State) (h : i.datapath = true) :
    ∃ t, exec i s = .next t ∧ t.history = s.history ∧ t.chip = s.chip ∧ s.Ran 0 t := by
  have idle : s.Ran 0 s := (State.Undisturbed.refl s).ran
  cases i with
  | bcdEnc v =>
    have drawn := s.bcdEnc_undisturbed v.toNat
    exact ⟨_, rfl, drawn.history, s.bcdEnc_chip v.toNat, drawn.ran⟩
  | bcdDec b =>
    simp only [exec, execBcdDec]
    split
    · exact ⟨_, rfl, rfl, rfl, idle⟩
    · exact ⟨_, rfl, rfl, rfl, idle⟩
  | bitRev | makeAddr => exact ⟨_, rfl, rfl, rfl, idle⟩
  | init | getSeconds | setSeconds | getClock | getCalClock | setCalClock => cases h

theorem exec_init_completes (s : State) : ∃ t, exec .init s = .next t := by
  cases h : s.regs.initState with
  | uninit => exact ⟨_, exec_init_uninit s h⟩
  | ready => exact ⟨_, exec_init_ready s h⟩

/-- Settles O55: only the body of SET_CAL_CLOCK can refuse, where `burstHitsRam` says so. -/
theorem everyCommandCompletes : Obligations.EveryCommandCompletes := by
  intro i s
  cases i with
  | bcdEnc | bcdDec | bitRev | makeAddr =>
    exact .inl ((exec_datapath _ s (by rfl)).imp fun _ done => done.1)
  | init => exact .inl (exec_init_completes s)
  | getSeconds => exact .inl (s.requireReady_completes getSecondsBody)
  | setSeconds v => exact .inl (s.requireReady_completes fun s => State.endWrite (s.wrSeconds v.toNat))
  | getClock => exact .inl (s.requireReady_completes getClockBody)
  | getCalClock => exact .inl (s.requireReady_completes getCalClockBody)
  | setCalClock p =>
    cases hi : s.regs.initState with
    | uninit => exact .inl ⟨_, s.requireReady_uninit (setCalClockBody p) hi⟩
    | ready =>
      cases hr : s.burstHitsRam with
      | true => exact .inr ⟨exec_setCalClock_ram p s hi hr, rfl, p, rfl⟩
      | false => exact .inl ⟨_, exec_setCalClock_ready p s hi hr⟩

/-- Before INIT every command that needs it ends at check 2 (R163). -/
theorem exec_of_uninit (i : Instr) (s : State) (needs : i.needsInit = true) (h : s.regs.initState = .uninit) :
    exec i s = .next (s.raise .notInitialised) := by
  cases i with
  | bcdEnc | bcdDec | bitRev | makeAddr | init => cases needs
  | getSeconds | setSeconds | getClock | getCalClock | setCalClock =>
    simp only [exec, execGetSeconds, execSetSeconds, execGetClock, execGetCalClock, execSetCalClock,
      State.requireReady_uninit _ s h]

/-- Settles O30: check 2, and NotInitialised is a fault. -/
theorem busCommandBeforeInitFaults : Obligations.BusCommandBeforeInitFaults := by
  intro i s needs h
  rw [exec_of_uninit i s needs h, State.raise_of_isFault _ s rfl]

/-! ### What every step does -/

/-- Whatever the move, a step is a run from the state with the move taken from the queue (R47). -/
theorem step_run (s t : State) (h : step s = .next t) :
    ∃ rest es, CommandRun { s with inputs := rest } t es := by
  have silent : ∀ (u : State) (r : Regs), CommandRun u { u with regs := r } [] :=
    fun u r => (CommandRun.none (.refl u)).withRegs r
  obtain ⟨-, ⟨-, rfl⟩ | ⟨c, i, rest, -, -, he⟩ | ⟨c, e, rest, -, -, rfl⟩ | ⟨rest, -, rfl⟩ | ⟨r, rest, -, rfl⟩⟩ :=
    step_spec s t h
  · exact ⟨_, [], silent t _⟩
  · obtain ⟨es, run, -⟩ := exec_spec i _ t he
    exact ⟨rest, es, run⟩
  · exact ⟨rest, [], silent _ _⟩
  · exact ⟨rest, [], silent _ _⟩
  · exact ⟨rest, [], silent _ _⟩

/-- Settles O50: the run's events are few and listed. -/
theorem stepSendsOnlyListedFrames : Obligations.StepSendsOnlyListedFrames := by
  intro s t h
  obtain ⟨rest, es, run⟩ := step_run s t h
  exact ⟨es, run.history, run.few, run.listed⟩

/-- Settles O54: the run keeps the parameters and the RAM. -/
theorem paramsAndRamUntouched : Obligations.ParamsAndRamUntouched := by
  intro s t h
  obtain ⟨rest, es, run⟩ := step_run s t h
  exact ⟨run.params, run.ram⟩

/-- A step whose move is not the reset input keeps `FAULT` set and READY ready. -/
theorem step_sticky_of_not_reset (s t : State) (h : step s = .next t) (noReset : ∀ rest, s.inputs ≠ .reset :: rest) :
    (s.regs.fault = true → t.regs.fault = true) ∧ (s.regs.initState = .ready → t.regs.initState = .ready) := by
  obtain ⟨-, ⟨-, rfl⟩ | ⟨c, i, rest, -, -, he⟩ | ⟨c, e, rest, -, -, rfl⟩ | ⟨rest, hr, -⟩ | ⟨r, rest, -, rfl⟩⟩ :=
    step_spec s t h
  · exact ⟨id, id⟩
  · obtain ⟨es, -, regs, -⟩ := exec_spec i _ t he
    refine ⟨fun fault => ?_, regs.stays_ready⟩
    rw [regs.fault, fault, Bool.true_or]
  · exact ⟨fun fault => by simp [fault], id⟩
  · exact absurd hr (noReset rest)
  · exact ⟨id, id⟩

/-- Settles O9: without a reset input `FAULT` and READY are kept. -/
theorem onlyResetClears : Obligations.OnlyResetClears := by
  intro s t h cleared
  by_contra noReset
  obtain ⟨fault, ready⟩ := step_sticky_of_not_reset s t h fun rest hr => noReset ⟨rest, hr⟩
  obtain ⟨was, is⟩ | ⟨was, is⟩ := cleared
  · exact absurd (fault was) (by simp [is])
  · exact absurd (ready was) (by simp [is])

end Sys2Proof.Machine
end

section
/-! SUPPORT. How a command ends: its registers and the calls it made; then INIT (R120 to R125, R163). -/

namespace Sys2Proof.Machine

/-! ### A run and its end -/

/-- A run from `s` that ends in `t` made the calls `es`, left the block's registers at `r`, and nothing else changed but
the chip's eight registers and the bytes to come. -/
structure State.Ended (s t : State) (es : List Event) (r : Regs) : Prop where
  regs    : t.regs = r
  history : t.history = s.history ++ es
  ran     : s.Ran es.length t

section
variable {s t : State} {es : List Event} {r : Regs}

theorem State.Ended.params (a : s.Ended t es r) : t.params = s.params := by
  obtain ⟨params, -, -, -⟩ := a.ran
  exact params

theorem State.Ended.okAt (a : s.Ended t es r) (k : Nat) : t.draws.okAt k = s.draws.okAt (k + es.length) := by
  obtain ⟨-, -, -, okAt⟩ := a.ran
  exact okAt k

theorem State.Ended.addr (a : s.Ended t es r) (q : RegId) (read : Bool) : t.addr q read = s.addr q read := by
  rw [State.addr, a.params]
  rfl

end

theorem State.Called.ended {s t : State} {e : Event} (c : s.Called t e) : s.Ended t [e] s.regs :=
  ⟨c.regs, c.history, c.params, c.inputs, c.ram, c.okAt⟩

theorem State.Ended.refl (s : State) : s.Ended s [] s.regs :=
  ⟨rfl, (List.append_nil _).symm, (State.Undisturbed.refl s).ran⟩

theorem State.Ended.trans {s t u : State} {es fs : List Event} {r r' : Regs} (a : s.Ended t es r)
    (b : t.Ended u fs r') : s.Ended u (es ++ fs) r' := by
  obtain ⟨-, history, params, inputs, ram, okAt⟩ := a
  obtain ⟨regs', history', params', inputs', ram', okAt'⟩ := b
  refine ⟨regs', by rw [history', history, List.append_assoc], params'.trans params, inputs'.trans inputs,
    ram'.trans ram, fun k => ?_⟩
  rw [okAt', okAt, List.length_append, Nat.add_assoc, Nat.add_comm fs.length]

theorem State.Ended.raise {s t : State} {es : List Event} {r : Regs} (a : s.Ended t es r) (e : ErrCode) :
    s.Ended (t.raise e) es (r.raise e) :=
  ⟨congrArg (Regs.raise e) a.regs, a.history, a.ran⟩

theorem State.Ended.complete {s t : State} {es : List Event} {r : Regs} (a : s.Ended t es r) :
    s.Ended t.complete es r.complete :=
  ⟨congrArg Regs.complete a.regs, a.history, a.ran⟩

/-- The registers of READY after a successful INIT (R120). -/
theorem State.Ended.ready {s t : State} {es : List Event} {r : Regs} (a : s.Ended t es r) :
    s.Ended t.becomeReady.complete es { r with initState := .ready, err := .ok } := by
  refine ⟨?_, a.history, a.ran⟩
  simp only [State.complete_regs, State.becomeReady_regs, a.regs, Regs.complete]

/-- TransportError is no fault: it writes `ERR` alone (R161). -/
theorem Regs.raise_transportError (r : Regs) : r.raise .transportError = { r with err := .transportError } := by
  simp only [Regs.raise, ErrCode.isFault, Bool.or_false]

theorem State.Ended.transportError {s t : State} {es : List Event} {r : Regs} (a : s.Ended t es r) :
    s.Ended (t.raise .transportError) es { r with err := .transportError } :=
  r.raise_transportError ▸ a.raise .transportError

/-! ### The datapath commands -/

/-- Settles O22: the calls and the chip from `exec_datapath`, the registers from the ways they can end. -/
theorem datapathTouchesNoBus : Obligations.DatapathTouchesNoBus := by
  intro i s h
  obtain ⟨t, he, history, chip, ran⟩ := exec_datapath i s h
  obtain ⟨-, -, regs, -⟩ := exec_spec i s t he
  refine ⟨t, he, history, chip, ?_, ?_, ?_, ran⟩
  · obtain kept | ⟨rfl, -⟩ := regs.initState
    · exact kept
    · cases h
  · by_contra moved
    obtain ⟨rfl | rfl, -⟩ := regs.writes_clk moved <;> cases h
  · by_contra moved
    obtain ⟨rfl, -⟩ := regs.writes_cal moved
    cases h

/-! ### INIT, path by path -/

theorem initBody_ended_of_err (s : State) (h : s.draws.okAt 0 = false) :
    s.Ended (initBody s) [writeEvent (wpFrame s) false] { s.regs with err := .transportError } := by
  obtain ⟨outcome, call⟩ := s.busWrite_spec (wpFrame s)
  rw [h] at outcome call
  rw [initBody_of_err s outcome]
  exact call.ended.transportError

/-- The write-protect write went through: INIT goes on with its second step. -/
theorem initBody_of_sent (s : State) (h : s.draws.okAt 0 = true) :
    ∃ t, s.Ended t [writeEvent (wpFrame s) true] s.regs ∧ initBody s = initStep2 t := by
  obtain ⟨outcome, call⟩ := s.busWrite_spec (wpFrame s)
  rw [h] at outcome call
  exact ⟨_, call.ended, initBody_of_ok s outcome⟩

theorem initStep2_ended_of_err (s : State) (h : s.draws.okAt 0 = false) :
    s.Ended (initStep2 s) [failedRead [s.addr .seconds true] 1] { s.regs with err := .transportError } := by
  obtain ⟨outcome, call⟩ := s.rdSecondsRaw_err h
  rw [initStep2_of_none s outcome]
  exact call.ended.transportError

/-- The seconds byte was received: INIT goes on with its third step. -/
theorem initStep2_of_received (s : State) (h : s.draws.okAt 0 = true) :
    ∃ b t, s.Ended t [readEvent [s.addr .seconds true] [b]] s.regs ∧ initStep2 s = initStep3 b t := by
  obtain ⟨b, outcome, call⟩ := s.rdSecondsRaw_ok h
  exact ⟨b, _, call.ended, initStep2_of_some s b outcome⟩

theorem initStep3_ended_of_clear (b : Byte) (s : State) (h : b.getLsbD 7 = false) :
    s.Ended (initStep3 b s) [] { s.regs with initState := .ready, err := .ok } := by
  rw [initStep3_of_clear b s h]
  exact (State.Ended.refl s).ready

theorem State.wrSeconds_zero (s : State) :
    (s.wrSeconds 0).1 = s.draws.okAt 0 ∧
      s.Ended (s.wrSeconds 0).2 [writeEvent [s.addr .seconds false, 0x00] (s.draws.okAt 0)] s.regs := by
  obtain ⟨outcome, call⟩ := s.wrSeconds_spec 0
  rw [bitRev_bcdEnc_zero] at call
  exact ⟨outcome, call.ended⟩

theorem initStep3_ended_of_set_ok (b : Byte) (s : State) (h : b.getLsbD 7 = true) (o : s.draws.okAt 0 = true) :
    s.Ended (initStep3 b s) [writeEvent [s.addr .seconds false, 0x00] true]
      { s.regs with initState := .ready, err := .ok } := by
  obtain ⟨outcome, ended⟩ := s.wrSeconds_zero
  rw [o] at outcome ended
  rw [initStep3_of_ok b s h outcome]
  exact ended.ready

theorem initStep3_ended_of_set_err (b : Byte) (s : State) (h : b.getLsbD 7 = true) (o : s.draws.okAt 0 = false) :
    s.Ended (initStep3 b s) [writeEvent [s.addr .seconds false, 0x00] false]
      { s.regs with err := .transportError } := by
  obtain ⟨outcome, ended⟩ := s.wrSeconds_zero
  rw [o] at outcome ended
  rw [initStep3_of_err b s h outcome]
  exact ended.transportError

/-! ### INIT, whole -/

theorem State.addr_seconds_true (s : State) (w : s.params.wf) : s.addr .seconds true = 0x81 :=
  makeAddr_seconds_true s.params w

theorem State.addr_seconds_false (s : State) (w : s.params.wf) : s.addr .seconds false = 0x01 :=
  makeAddr_seconds_false s.params w

/-- The first two calls of INIT answered `ok`: what is left is the third step on the byte received. -/
theorem initBody_of_received (s : State) (o : s.draws.okAt 0 = true) (o' : s.draws.okAt 1 = true) :
    ∃ b t, s.Ended t [writeEvent (wpFrame s) true, readEvent [s.addr .seconds true] [b]] s.regs ∧
      initBody s = initStep3 b t := by
  obtain ⟨t, sent, body⟩ := initBody_of_sent s o
  obtain ⟨b, u, received, rest⟩ := initStep2_of_received t ((sent.okAt 0).trans o')
  rw [sent.addr, sent.regs] at received
  exact ⟨b, u, sent.trans received, body.trans rest⟩

theorem initBody_ended_of_second_err (s : State) (o : s.draws.okAt 0 = true) (o' : s.draws.okAt 1 = false) :
    s.Ended (initBody s) [writeEvent (wpFrame s) true, failedRead [s.addr .seconds true] 1]
      { s.regs with err := .transportError } := by
  obtain ⟨t, sent, body⟩ := initBody_of_sent s o
  have failed := initStep2_ended_of_err t ((sent.okAt 0).trans o')
  rw [sent.addr, sent.regs] at failed
  rw [body]
  exact sent.trans failed

/-- The third step after the first two: `b` is the byte received. -/
theorem initStep3_ended (b : Byte) {s t : State} {es : List Event} (early : s.Ended t es s.regs) :
    (b.getLsbD 7 = false → s.Ended (initStep3 b t) es { s.regs with initState := .ready, err := .ok }) ∧
    (b.getLsbD 7 = true → s.draws.okAt es.length = true →
      s.Ended (initStep3 b t) (es ++ [writeEvent [s.addr .seconds false, 0x00] true])
        { s.regs with initState := .ready, err := .ok }) ∧
    (b.getLsbD 7 = true → s.draws.okAt es.length = false →
      s.Ended (initStep3 b t) (es ++ [writeEvent [s.addr .seconds false, 0x00] false])
        { s.regs with err := .transportError }) := by
  have next : t.draws.okAt 0 = s.draws.okAt es.length := by rw [early.okAt, Nat.zero_add]
  rw [← next, ← early.regs, ← early.addr]
  refine ⟨fun clear => ?_, fun set o => early.trans (initStep3_ended_of_set_ok b t set o),
    fun set o => early.trans (initStep3_ended_of_set_err b t set o)⟩
  exact List.append_nil es ▸ early.trans (initStep3_ended_of_clear b t clear)

/-- Settles O23: the first two calls, then the third step by bit 7 of the byte received. -/
theorem initClearsAndBecomesReady : Obligations.InitClearsAndBecomesReady := by
  intro s w uninit o0 o1 o2
  obtain ⟨b, t, early, body⟩ := initBody_of_received s o0 o1
  obtain ⟨clear, sent, -⟩ := initStep3_ended b early
  rw [← body, s.addr_seconds_true w] at clear sent
  rw [s.addr_seconds_false w] at sent
  refine ⟨b, initBody s, exec_init_uninit s uninit, ?_⟩
  cases h : b.getLsbD 7 with
  | false =>
    obtain ⟨regs, history, ran⟩ := clear h
    exact ⟨history.trans (List.append_nil _).symm, regs, ran⟩
  | true =>
    obtain ⟨regs, history, ran⟩ := sent h o2
    exact ⟨history.trans (List.append_assoc _ _ _).symm, regs, ran⟩

/-- Settles O24: one path for each call that fails. -/
theorem initFailureStopsThere : Obligations.InitFailureStopsThere := by
  intro s w uninit
  refine ⟨fun o0 => ?_, fun o0 o1 => ?_, fun o0 o1 o2 => ?_⟩
  · obtain ⟨regs, history, ran⟩ := initBody_ended_of_err s o0
    exact ⟨_, exec_init_uninit s uninit, ran, regs, history⟩
  · obtain ⟨regs, history, ran⟩ := initBody_ended_of_second_err s o0 o1
    rw [s.addr_seconds_true w] at history
    exact ⟨_, exec_init_uninit s uninit, ran, regs, history⟩
  · obtain ⟨b, t, early, body⟩ := initBody_of_received s o0 o1
    obtain ⟨clear, -, failed⟩ := initStep3_ended b early
    rw [← body, s.addr_seconds_true w] at clear failed
    rw [s.addr_seconds_false w] at failed
    refine ⟨b, initBody s, exec_init_uninit s uninit, fun h => ?_, fun h => ?_⟩
    · obtain ⟨regs, history, ran⟩ := failed h o2
      exact ⟨ran, regs, history⟩
    · obtain ⟨regs, history, ran⟩ := clear h
      exact ⟨ran, regs, history⟩

/-! ### How `INIT_STATE` moves -/

/-- Settles O26: of the ways a command's registers can end, one moves `INIT_STATE`, and then no call failed. -/
theorem onlyInitMovesInitState : Obligations.OnlyInitMovesInitState := by
  intro i s t h moved
  obtain ⟨es, run, regs, noErr⟩ := exec_spec i s t h
  obtain kept | ⟨isInit, uninit, ready, ok⟩ := regs.initState
  · exact absurd kept moved
  · exact ⟨isInit, uninit, ready, ok, es, run.history, noErr moved⟩

/-- INIT's calls decide how it ends: READY when every call was answered `ok`, TransportError when one failed. -/
theorem initBody_ended (s : State) :
    ∃ es, (s.Ended (initBody s) es { s.regs with initState := .ready, err := .ok } ∧ ∀ e ∈ es, e.result ≠ .err) ∨
      (s.Ended (initBody s) es { s.regs with err := .transportError } ∧ ∃ e ∈ es, e.result = .err) := by
  cases o0 : s.draws.okAt 0 with
  | false => exact ⟨_, .inr ⟨initBody_ended_of_err s o0, by simp [writeEvent]⟩⟩
  | true =>
    cases o1 : s.draws.okAt 1 with
    | false => exact ⟨_, .inr ⟨initBody_ended_of_second_err s o0 o1, by simp [failedRead]⟩⟩
    | true =>
      obtain ⟨b, t, early, body⟩ := initBody_of_received s o0 o1
      obtain ⟨clear, sent, failed⟩ := initStep3_ended b early
      rw [← body] at clear sent failed
      cases h : b.getLsbD 7 with
      | false => exact ⟨_, .inl ⟨clear h, by simp [writeEvent, readEvent]⟩⟩
      | true =>
        cases o2 : s.draws.okAt 2 with
        | false => exact ⟨_, .inr ⟨failed h o2, by simp [writeEvent]⟩⟩
        | true => exact ⟨_, .inl ⟨sent h o2, by simp [writeEvent, readEvent]⟩⟩

/-- Settles O27: one lemma for each row of the table. -/
theorem initStateMachine : Obligations.InitStateMachine := by
  refine ⟨fun s t uninit h => ?_, fun i s needs uninit => ?_, fun i s datapath uninit => ?_, fun s ready => ?_,
    fun i s t ready h => ?_, fun s c rest w head illegal => ?_, fun s rest w head => ?_⟩
  · rw [exec_init_uninit s uninit] at h
    cases h
    obtain ⟨es, ⟨⟨regs, history, -⟩, ok⟩ | ⟨⟨regs, history, -⟩, failed⟩⟩ := initBody_ended s
    · refine ⟨es, history, by rw [regs], fun _ => by simp [regs], fun ⟨e, he, failed⟩ => absurd failed (ok e he)⟩
    · obtain ⟨e, he, err⟩ := failed
      exact ⟨es, history, by rw [regs], fun ok => absurd err (ok e he), fun _ => by simp [regs, uninit]⟩
  · exact ⟨_, exec_of_uninit i s needs uninit, rfl, uninit, rfl, Bool.or_true _⟩
  · obtain ⟨t, h, history, -, initState, -⟩ := datapathTouchesNoBus i s datapath
    exact ⟨t, h, history, initState.trans uninit⟩
  · exact ⟨_, exec_init_ready s ready, rfl, ready, rfl, Bool.or_true _⟩
  · obtain ⟨-, -, regs, -⟩ := exec_spec i s t h
    exact regs.stays_ready ready
  · exact ⟨_, (step_of_move s _ rest w head).trans (issue_of_not_legal c _ illegal), rfl, rfl, rfl, Bool.or_true _⟩
  · exact ⟨_, step_of_move s _ rest w head, rfl, rfl, rfl⟩

end Sys2Proof.Machine
end

section
/-! SUPPORT. The single-register and burst commands in READY: the one call each makes, and how it ends (R130 to R146,
R161, R165). -/

namespace Sys2Proof.Machine

/-! ### Bytes on the wire -/

theorem reversed_bitRev (b : Byte) : Reversed (bitRev b) b := bitRev_getLsbD b

theorem onWire_bitRev_bcdPack (v : Nat) (h : v ≤ 99) : OnWire v (bitRev (bcdPack v)) :=
  ⟨bcdPack v, encodes_bcdPack v h, reversed_bitRev _⟩

/-- A value in 0..99 goes out as its reversed BCD byte (R77). -/
theorem onWire_bcdEnc (v : Nat) (s : State) (h : v ≤ 99) : OnWire v (bitRev (s.bcdEnc v).1) := by
  rw [State.bcdEnc_of_le h]
  exact onWire_bitRev_bcdPack v h

/-- The command byte is the natural constant, or its reversal with `P_BURST_WRITE_ADDR_REVERSED` (R142). -/
theorem State.burstWriteAddr_eq (s : State) :
    s.burstWriteAddr =
      if s.params.burstWriteAddrReversed then bitRev (s.params.nat.get .clockBurst)
      else s.params.nat.get .clockBurst := by
  rw [State.burstWriteAddr, State.addr, makeAddr_false]

/-- What SET_CAL_CLOCK sends is its frame (R79, R142). -/
theorem isCalFrame_calFrame (p : Ports) (s : State) : IsCalFrame s.params p (s.calFrame p).1 := by
  obtain ⟨se, mi, ho, da, mo, dw, y, frame, hse, hmi, hho, hda, hmo, hdw, hy⟩ := s.calFrame_bytes p
  refine ⟨_, _, _, _, _, _, _, _, frame, fun natural => ?_, fun reversed => ?_, fun h => ?_, fun h => ?_, fun h => ?_,
    fun h => ?_, fun h => ?_, fun h => ?_, fun low high => ?_⟩
  · rw [s.burstWriteAddr_eq, natural]; rfl
  · rw [s.burstWriteAddr_eq, if_pos reversed]; exact reversed_bitRev _
  · exact hse h ▸ onWire_bitRev_bcdPack _ h
  · exact hmi h ▸ onWire_bitRev_bcdPack _ h
  · exact hho h ▸ onWire_bitRev_bcdPack _ h
  · exact hda h ▸ onWire_bitRev_bcdPack _ h
  · exact hmo h ▸ onWire_bitRev_bcdPack _ h
  · exact hdw h ▸ onWire_bitRev_bcdPack _ h
  · exact hy low high ▸ onWire_bitRev_bcdPack _ (by omega)

/-! ### Commands that end with a write -/

/-- A command whose last act was a write ends as the write was answered (R161). -/
theorem State.Called.endWrite {s : State} {r : Bool × State} {frame : List Byte} {ok : Bool} (outcome : r.1 = ok)
    (call : s.Called r.2 (writeEvent frame ok)) :
    s.Ended (State.endWrite r) [writeEvent frame ok] { s.regs with err := if ok then .ok else .transportError } := by
  cases ok with
  | true =>
    rw [State.endWrite_ok outcome]
    exact call.ended.complete
  | false =>
    rw [State.endWrite_err outcome]
    exact call.ended.transportError

/-- The frame of SET_SECONDS (F_SEC_WR, R78). -/
def secFrame (v : Nat) (s : State) : List Byte := [s.addr .seconds false, bitRev (s.bcdEnc v).1]

theorem setSeconds_ended (v : Nat) (s : State) :
    s.Ended (State.endWrite (s.wrSeconds v)) [writeEvent (secFrame v s) (s.draws.okAt 0)]
      { s.regs with err := if s.draws.okAt 0 then .ok else .transportError } := by
  obtain ⟨outcome, call⟩ := s.wrSeconds_spec v
  exact State.Called.endWrite outcome call

theorem setCalClock_ended (p : Ports) (s : State) :
    s.Ended (State.endWrite ((s.calFrame p).2.busWrite (s.calFrame p).1))
      [writeEvent (s.calFrame p).1 (s.draws.okAt 0)]
      { s.regs with err := if s.draws.okAt 0 then .ok else .transportError } := by
  obtain ⟨drawn, -⟩ := s.calFrame_undisturbed p
  obtain ⟨outcome, call⟩ := (s.calFrame p).2.busWrite_spec (s.calFrame p).1
  rw [drawn.okAt] at outcome call
  exact State.Called.endWrite outcome (drawn.called call)

/-- Settles O29: `WrSeconds` sends its one frame, and the answer is `ok`. -/
theorem setSecondsWritesFrame : Obligations.SetSecondsWritesFrame := by
  intro v s w ready o
  obtain ⟨regs, history, ran⟩ := setSeconds_ended v.toNat s
  rw [secFrame, s.addr_seconds_false w, o] at history
  rw [o] at regs
  exact ⟨_, _, exec_setSeconds_ready v s ready, onWire_bcdEnc v.toNat s, history, regs, ran⟩

/-- Settles O35: the frame goes out whatever the operands are, and the answer is the end. -/
theorem setCalClockWritesNineBytes : Obligations.SetCalClockWritesNineBytes := by
  intro p s ready sent
  obtain ⟨regs, history, ran⟩ := setCalClock_ended p s
  exact ⟨_, _, exec_setCalClock_ready p s ready sent, isCalFrame_calFrame p s, history, regs, ran⟩

/-! ### The refusal of SET_CAL_CLOCK (R59) -/

/-- Bit 0 clear: the direction mask leaves the byte alone. -/
theorem and_mask_of_even (c : Byte) (h : c.getLsbD 0 = false) : c &&& 0xFE = c := by
  revert c
  decide

/-- The natural constant `regOfNat` looks up is the register's own. -/
theorem get_of_regOfNat (nat : NatMap) (n : Byte) (r : RegId) (h : regOfNat nat n = some r) : nat.get r = n := by
  simpa using List.find?_some h

/-- The chip reads a byte as a write of `r` exactly when its reversal is the natural constant of `r` (R59, R75). -/
theorem chipCommand_eq_write_iff (p : Params) (w : p.wf) (x : Byte) (r : RegId) :
    chipCommand p x = .write r ↔ bitRev x = p.nat.get r := by
  constructor
  · intro h
    simp only [chipCommand] at h
    split at h
    · cases h
    · rename_i q known
      split at h
      · cases h
      · rename_i write
        cases h
        rw [get_of_regOfNat _ _ _ known, and_mask_of_even _ (by simpa using write)]
  · intro h
    have address : x = makeAddr p.nat r false := by rw [makeAddr_false, ← h, bitRev_bitRev]
    rw [address, chipCommand_makeAddr p w]
    rfl

theorem isRamWrite_iff (p : Params) (x : Byte) :
    isRamWrite p x = true ↔ chipCommand p x = .write .ram ∨ chipCommand p x = .write .ramBurst := by
  cases h : chipCommand p x with
  | read r => simp [isRamWrite, h]
  | unknown => simp [isRamWrite, h]
  | write r => cases r <;> simp [isRamWrite, h]

/-- With the command byte reversed the chip takes it for CLOCK_BURST; unreversed, its reversal decides (R59, R142). -/
theorem State.burstHitsRam_iff (s : State) (w : s.params.wf) : s.burstHitsRam = true ↔ s.CalFrameHitsRam := by
  rw [State.burstHitsRam, Bool.and_eq_true, isRamWrite_iff, chipCommand_eq_write_iff _ w, chipCommand_eq_write_iff _ w,
    s.burstWriteAddr_eq, State.CalFrameHitsRam]
  cases s.params.burstWriteAddrReversed with
  | false => simp
  | true =>
    have notRam : s.params.nat.get .clockBurst ≠ s.params.nat.get .ram := fun e => nomatch nat_injective _ w _ _ e
    have notRamBurst : s.params.nat.get .clockBurst ≠ s.params.nat.get .ramBurst :=
      fun e => nomatch nat_injective _ w _ _ e
    simp [notRam, notRamBurst]

/-- Settles O36: the body refuses exactly where `burstHitsRam` says so. -/
theorem ramCommandRefused : Obligations.RamCommandRefused := by
  refine fun s w => ⟨s.burstHitsRam_iff w, fun p ready => ?_⟩
  rw [← s.burstHitsRam_iff w]
  cases hits : s.burstHitsRam with
  | true => simp [exec_setCalClock_ram p s ready hits]
  | false => simp [exec_setCalClock_ready p s ready hits]

/-! ### GET_SECONDS -/

theorem getSeconds_ended_of_received (s : State) (o : s.draws.okAt 0 = true) :
    ∃ b, s.Ended (getSecondsBody s) [readEvent [s.addr .seconds true] [b]]
      { s.regs with resByte := some b, err := .ok } := by
  obtain ⟨b, outcome, call⟩ := s.rdSecondsRaw_ok o
  rw [getSecondsBody_of_some s b outcome]
  refine ⟨b, ?_, call.history, call.ended.ran⟩
  rw [State.complete_regs, State.setResByte_regs, call.regs]
  rfl

/-- Settles O28: the byte of the recorded read is the one written. -/
theorem getSecondsReturnsRawByte : Obligations.GetSecondsReturnsRawByte := by
  intro s w ready o
  obtain ⟨b, regs, history, ran⟩ := getSeconds_ended_of_received s o
  rw [s.addr_seconds_true w] at history
  exact ⟨b, _, exec_getSeconds_ready s ready, history, regs, ran⟩

theorem getSeconds_ended_of_err (s : State) (o : s.draws.okAt 0 = false) :
    s.Ended (getSecondsBody s) [failedRead [s.addr .seconds true] 1] { s.regs with err := .transportError } := by
  obtain ⟨outcome, call⟩ := s.rdSecondsRaw_err o
  rw [getSecondsBody_of_none s outcome]
  exact call.ended.transportError

/-! ### The burst reads -/

/-- The command byte of a CLOCK_BURST read (R76). -/
def burstReadOut (s : State) : List Byte := [s.addr .clockBurst true]

theorem getClock_ended_of_err (s : State) (o : s.draws.okAt 0 = false) :
    s.Ended (getClockBody s) [failedRead (burstReadOut s) 3] { s.regs with err := .transportError } := by
  obtain ⟨outcome, call⟩ := s.busTransfer_err (burstReadOut s) 3 o
  rw [getClockBody_of_none s outcome]
  exact call.ended.transportError

theorem getCalClock_ended_of_err (s : State) (o : s.draws.okAt 0 = false) :
    s.Ended (getCalClockBody s) [failedRead (burstReadOut s) 8] { s.regs with err := .transportError } := by
  obtain ⟨outcome, call⟩ := s.busTransfer_err (burstReadOut s) 8 o
  rw [getCalClockBody_of_none s outcome]
  exact call.ended.transportError

/-- Settles O31: one path for each of the five commands. -/
theorem transportErrorSurfaces : Obligations.TransportErrorSurfaces := by
  refine fun s ready o => ⟨?_, fun v => ?_, ?_, ?_, fun p sent => ?_⟩
  · obtain ⟨regs, history, ran⟩ := getSeconds_ended_of_err s o
    exact ⟨_, exec_getSeconds_ready s ready, ran, regs, history⟩
  · obtain ⟨regs, history, ran⟩ := setSeconds_ended v.toNat s
    rw [o] at regs history
    exact ⟨_, _, exec_setSeconds_ready v s ready, ran, regs, onWire_bcdEnc v.toNat s, history⟩
  · obtain ⟨regs, history, ran⟩ := getClock_ended_of_err s o
    exact ⟨_, exec_getClock_ready s ready, ran, regs, history⟩
  · obtain ⟨regs, history, ran⟩ := getCalClock_ended_of_err s o
    exact ⟨_, exec_getCalClock_ready s ready, ran, regs, history⟩
  · obtain ⟨regs, history, ran⟩ := setCalClock_ended p s
    rw [o] at regs history
    exact ⟨_, _, exec_setCalClock_ready p s ready sent, ran, regs, isCalFrame_calFrame p s, history⟩

/-- The byte GET_CLOCK decodes for a received one (R140). -/
def clockByte (p : Params) (b : Byte) : Byte := if p.clockReadReversed then bitRev b else b

theorem clockBytes_eq_map (p : Params) (received : List Byte) : clockBytes p received = received.map (clockByte p) := by
  unfold clockBytes clockByte
  cases p.clockReadReversed <;> simp

theorem clockByte_natural (p : Params) (h : p.clockReadReversed = false) (b : Byte) : clockByte p b = b := by
  simp [clockByte, h]

theorem clockByte_reversed (p : Params) (h : p.clockReadReversed = true) (b : Byte) : Reversed (clockByte p b) b := by
  simp only [clockByte, h, if_true, reversed_bitRev]

/-- GET_CLOCK whose transfer succeeded: three bytes, and the end of R140 on them. -/
theorem getClockBody_of_received (s : State) (o : s.draws.okAt 0 = true) :
    ∃ r0 r1 r2 t, s.Ended t [readEvent (burstReadOut s) [r0, r1, r2]] s.regs ∧
      getClockBody s = finishClock [clockByte s.params r0, clockByte s.params r1, clockByte s.params r2] t := by
  obtain ⟨bytes, three, outcome, call⟩ := s.busTransfer_ok (burstReadOut s) 3 o
  obtain ⟨r0, r1, r2, rfl⟩ := List.length_eq_three.mp three
  exact ⟨r0, r1, r2, _, call.ended, by rw [getClockBody_of_some s _ outcome, clockBytes_eq_map]; rfl⟩

/-- GET_CAL_CLOCK whose transfer succeeded: eight bytes, and the end of R141 on the first seven, reversed. -/
theorem getCalClockBody_of_received (s : State) (o : s.draws.okAt 0 = true) :
    ∃ r0 r1 r2 r3 r4 r5 r6 r7 t,
      s.Ended t [readEvent (burstReadOut s) [r0, r1, r2, r3, r4, r5, r6, r7]] s.regs ∧
      getCalClockBody s =
        finishCalClock [bitRev r0, bitRev r1, bitRev r2, bitRev r3, bitRev r4, bitRev r5, bitRev r6] t := by
  obtain ⟨bytes, eight, outcome, call⟩ := s.busTransfer_ok (burstReadOut s) 8 o
  match bytes, eight with
  | [r0, r1, r2, r3, r4, r5, r6, r7], _ =>
    exact ⟨r0, r1, r2, r3, r4, r5, r6, r7, _, call.ended, getCalClockBody_of_some s _ outcome⟩

section
variable {s t : State} {es : List Event} {r : Regs}

/-- The check of GET_CLOCK passes, or is off. -/
theorem State.Ended.clock (a : s.Ended t es r) (c0 c1 c2 : Byte)
    (accept : s.params.decodeCheck = false ∨ Decimal c0 ∧ Decimal c1 ∧ Decimal c2) :
    s.Ended (finishClock [c0, c1, c2] t) es
      { r with
        resSec := some (bcdDec c0), resMin := some (bcdDec c1), resHour := some (bcdDec c2), err := .ok } := by
  have accept' : t.params.decodeCheck = false ∨ [c0, c1, c2].all bcdValid = true := by
    simpa [a.params, bcdValid_iff_decimal] using accept
  rw [finishClock_of_accept _ t accept', ← a.regs]
  exact ⟨rfl, a.history, a.ran⟩

theorem State.Ended.clock_reject (a : s.Ended t es r) (c0 c1 c2 : Byte) (on : s.params.decodeCheck = true)
    (invalid : ¬ (Decimal c0 ∧ Decimal c1 ∧ Decimal c2)) :
    s.Ended (finishClock [c0, c1, c2] t) es { r with err := .decodeError, fault := true } := by
  have rejected : [c0, c1, c2].all bcdValid = false := by
    rw [← Bool.not_eq_true]
    simpa [bcdValid_iff_decimal] using invalid
  rw [finishClock_of_reject _ t (by rw [a.params, on]) rejected, State.raise_decodeError, ← a.regs]
  exact ⟨rfl, a.history, a.ran⟩

/-- The check of GET_CAL_CLOCK reads the day byte only when it is read as BCD (R141). -/
theorem checkedCalBytes_valid_iff (p : Params) (c0 c1 c2 c3 c4 c5 c6 : Byte) :
    (checkedCalBytes p [c0, c1, c2, c3, c4, c5, c6]).all bcdValid = true ↔
      Decimal c0 ∧ Decimal c1 ∧ Decimal c2 ∧ Decimal c3 ∧ Decimal c4 ∧ (p.dayDecode = .bcd → Decimal c5) ∧
        Decimal c6 := by
  cases h : p.dayDecode <;> simp [checkedCalBytes, h, bcdValid_iff_decimal]

/-- The registers GET_CAL_CLOCK leaves on success (R141), from its seven reversed bytes. -/
def calRegs (p : Params) (r : Regs) (c0 c1 c2 c3 c4 c5 c6 : Byte) : Regs :=
  { r with
    resSec := some (bcdDec c0), resMin := some (bcdDec c1), resHour := some (bcdDec c2),
    resYear := some (yearOf (bcdDec c6)), resMonth := some (bcdDec c4), resDate := some (bcdDec c3),
    resDay := some (decodeDay p c5), err := .ok }

/-- The check of GET_CAL_CLOCK passes, or is off. -/
theorem State.Ended.calendar (a : s.Ended t es r) (c0 c1 c2 c3 c4 c5 c6 : Byte)
    (accept : s.params.decodeCheck = false ∨
      (checkedCalBytes s.params [c0, c1, c2, c3, c4, c5, c6]).all bcdValid = true) :
    s.Ended (finishCalClock [c0, c1, c2, c3, c4, c5, c6] t) es (calRegs s.params r c0 c1 c2 c3 c4 c5 c6) := by
  rw [← a.params] at accept ⊢
  rw [finishCalClock_of_accept _ t accept, ← a.regs]
  exact ⟨rfl, a.history, a.ran⟩

theorem State.Ended.calendar_reject (a : s.Ended t es r) (c : List Byte) (on : s.params.decodeCheck = true)
    (invalid : (checkedCalBytes s.params c).all bcdValid = false) :
    s.Ended (finishCalClock c t) es { r with err := .decodeError, fault := true } := by
  rw [← a.params] at on invalid
  rw [finishCalClock_of_reject _ t on invalid, State.raise_decodeError, ← a.regs]
  exact ⟨rfl, a.history, a.ran⟩

end

theorem decodes_decodeDay (p : Params) (b : Byte) (h : p.dayDecode = .bcd) : Decodes b (decodeDay p b) := by
  simp only [decodeDay, h, decodes_bcdDec]

theorem decodeDay_plain (p : Params) (b : Byte) (h : p.dayDecode = .plain) : decodeDay p b = b := by
  simp only [decodeDay, h]

/-- Settles O32: with the check off the three bytes are decoded whatever they are. -/
theorem getClockDecodesThreeBytes : Obligations.GetClockDecodesThreeBytes := by
  intro s ready o off
  obtain ⟨r0, r1, r2, t, received, body⟩ := getClockBody_of_received s o
  obtain ⟨regs, history, ran⟩ := received.clock _ _ _ (.inl off)
  exact ⟨r0, r1, r2, clockByte s.params r0, clockByte s.params r1, clockByte s.params r2, _, _, _, _,
    (exec_getClock_ready s ready).trans (congrArg _ body), history,
    fun n => ⟨clockByte_natural _ n r0, clockByte_natural _ n r1, clockByte_natural _ n r2⟩,
    fun v => ⟨clockByte_reversed _ v r0, clockByte_reversed _ v r1, clockByte_reversed _ v r2⟩,
    decodes_bcdDec _, decodes_bcdDec _, decodes_bcdDec _, regs, ran⟩

/-- Settles O33: with the check off the seven reversed bytes are decoded whatever they are. -/
theorem getCalClockDecodesSevenBytes : Obligations.GetCalClockDecodesSevenBytes := by
  intro s ready o off
  obtain ⟨r0, r1, r2, r3, r4, r5, r6, r7, t, received, body⟩ := getCalClockBody_of_received s o
  obtain ⟨regs, history, ran⟩ := received.calendar _ _ _ _ _ _ _ (.inl off)
  exact ⟨r0, r1, r2, r3, r4, r5, r6, r7, _, _, _, _, _, _, _, _, _, _, _, _, decodeDay s.params (bitRev r5), _, _, _,
    (exec_getCalClock_ready s ready).trans (congrArg _ body), history,
    reversed_bitRev r0, reversed_bitRev r1, reversed_bitRev r2, reversed_bitRev r3, reversed_bitRev r4,
    reversed_bitRev r5, reversed_bitRev r6, decodes_bcdDec _, decodes_bcdDec _, decodes_bcdDec _, decodes_bcdDec _,
    decodes_bcdDec _, decodes_decodeDay _ _, decodeDay_plain _ _, decodes_bcdDec _, yearOf_toNat _, regs, ran⟩

/-- With the check on, the end of GET_CLOCK is the one its bytes call for (R165). -/
theorem State.Ended.clock_checked {s t : State} {es : List Event} {r : Regs} (a : s.Ended t es r) (c0 c1 c2 : Byte)
    (on : s.params.decodeCheck = true) :
    ∃ r', s.Ended (finishClock [c0, c1, c2] t) es r' ∧
      (Decimal c0 ∧ Decimal c1 ∧ Decimal c2 → r' = { r with
        resSec := some (bcdDec c0), resMin := some (bcdDec c1), resHour := some (bcdDec c2), err := .ok }) ∧
      (¬ (Decimal c0 ∧ Decimal c1 ∧ Decimal c2) → r' = { r with err := .decodeError, fault := true }) := by
  by_cases valid : Decimal c0 ∧ Decimal c1 ∧ Decimal c2
  · exact ⟨_, a.clock c0 c1 c2 (.inr valid), fun _ => rfl, fun invalid => absurd valid invalid⟩
  · exact ⟨_, a.clock_reject c0 c1 c2 on valid, fun valid' => absurd valid' valid, fun _ => rfl⟩

/-- With the check on, the end of GET_CAL_CLOCK is the one its bytes call for (R165). -/
theorem State.Ended.calendar_checked {s t : State} {es : List Event} {r : Regs} (a : s.Ended t es r)
    (c0 c1 c2 c3 c4 c5 c6 : Byte) (on : s.params.decodeCheck = true) :
    ∃ r', s.Ended (finishCalClock [c0, c1, c2, c3, c4, c5, c6] t) es r' ∧
      ((checkedCalBytes s.params [c0, c1, c2, c3, c4, c5, c6]).all bcdValid = true →
        r' = calRegs s.params r c0 c1 c2 c3 c4 c5 c6) ∧
      (¬ (checkedCalBytes s.params [c0, c1, c2, c3, c4, c5, c6]).all bcdValid = true →
        r' = { r with err := .decodeError, fault := true }) := by
  cases valid : (checkedCalBytes s.params [c0, c1, c2, c3, c4, c5, c6]).all bcdValid with
  | true => exact ⟨_, a.calendar _ _ _ _ _ _ _ (.inr valid), fun _ => rfl, fun invalid => absurd rfl invalid⟩
  | false => exact ⟨_, a.calendar_reject _ on valid, nofun, fun _ => rfl⟩

/-- Settles O34: the two reads under the check, the values decoded where every checked byte is decimal. -/
theorem decodeCheckGuardsReads : Obligations.DecodeCheckGuardsReads := by
  refine fun s ready o on => ⟨?_, ?_⟩
  · obtain ⟨r0, r1, r2, t, received, body⟩ := getClockBody_of_received s o
    obtain ⟨r', ⟨regs, history, ran⟩, valid, invalid⟩ := received.clock_checked _ _ _ on
    exact ⟨r0, r1, r2, clockByte s.params r0, clockByte s.params r1, clockByte s.params r2, _,
      (exec_getClock_ready s ready).trans (congrArg _ body), ran, history,
      fun n => ⟨clockByte_natural _ n r0, clockByte_natural _ n r1, clockByte_natural _ n r2⟩,
      fun v => ⟨clockByte_reversed _ v r0, clockByte_reversed _ v r1, clockByte_reversed _ v r2⟩,
      fun decimal => ⟨_, _, _, decodes_bcdDec _, decodes_bcdDec _, decodes_bcdDec _, regs.trans (valid decimal)⟩,
      fun notDecimal => regs.trans (invalid notDecimal)⟩
  · obtain ⟨r0, r1, r2, r3, r4, r5, r6, r7, t, received, body⟩ := getCalClockBody_of_received s o
    obtain ⟨r', ⟨regs, history, ran⟩, valid, invalid⟩ := received.calendar_checked _ _ _ _ _ _ _ on
    rw [checkedCalBytes_valid_iff] at valid invalid
    exact ⟨r0, r1, r2, r3, r4, r5, r6, r7, _, _, _, _, _, _, _, _,
      (exec_getCalClock_ready s ready).trans (congrArg _ body), ran, history,
      reversed_bitRev r0, reversed_bitRev r1, reversed_bitRev r2, reversed_bitRev r3, reversed_bitRev r4,
      reversed_bitRev r5, reversed_bitRev r6,
      fun decimal => ⟨_, _, _, _, _, decodeDay s.params (bitRev r5), _, _, decodes_bcdDec _, decodes_bcdDec _,
        decodes_bcdDec _, decodes_bcdDec _, decodes_bcdDec _, decodes_decodeDay _ _, decodeDay_plain _ _,
        decodes_bcdDec _, yearOf_toNat _, regs.trans (valid decimal)⟩,
      fun notDecimal => regs.trans (invalid notDecimal)⟩

end Sys2Proof.Machine
end

section
/-! SUPPORT. The commands against the reference chip, once the time that passes before a call has passed: what the reads
receive and what the writes leave (R58 to R65, R67, R145, R189). -/

namespace Sys2Proof.Machine

/-! ### Ends of commands leave the chip -/

theorem State.endWrite_chip (r : Bool × State) : (State.endWrite r).chip = r.2.chip := by
  unfold State.endWrite
  split <;> rfl

theorem finishClock_chip (c : List Byte) (s : State) : (finishClock c s).chip = s.chip := by
  unfold finishClock
  split <;> rfl

theorem finishCalClock_chip (c : List Byte) (s : State) : (finishCalClock c s).chip = s.chip := by
  unfold finishCalClock
  split <;> rfl

/-- The reads leave the chip as time left it (R63). -/
theorem getSecondsBody_chip (s : State) : (getSecondsBody s).chip = s.tick.chip := by
  rw [← s.busTransfer_chip_of_tick [s.addr .seconds true] 1]
  cases h : s.rdSecondsRaw.1 with
  | none => rw [getSecondsBody_of_none s h]; rfl
  | some b => rw [getSecondsBody_of_some s b h]; rfl

theorem getClockBody_chip (s : State) : (getClockBody s).chip = s.tick.chip := by
  rw [← s.busTransfer_chip_of_tick (burstReadOut s) 3]
  cases h : (s.busTransfer (burstReadOut s) 3).1 with
  | none => rw [getClockBody_of_none s h]; rfl
  | some r => rw [getClockBody_of_some s r h, finishClock_chip]; rfl

theorem getCalClockBody_chip (s : State) : (getCalClockBody s).chip = s.tick.chip := by
  rw [← s.busTransfer_chip_of_tick (burstReadOut s) 8]
  cases h : (s.busTransfer (burstReadOut s) 8).1 with
  | none => rw [getCalClockBody_of_none s h]; rfl
  | some r => rw [getCalClockBody_of_some s r h, finishCalClock_chip]; rfl

/-! ### What the reads receive -/

/-- A transfer whose bytes the chip all fixes returns them, from the chip as it is once time has passed (R63, R64). -/
theorem State.busTransfer_answer_of_tick (s : State) (c : Chip) (out : List Byte) (n : Nat) (h : s.tick.chip = some c)
    (o : s.draws.okAt 0 = true) (l : (c.answer s.params out n).length = n) :
    (s.busTransfer out n).1 = some (c.answer s.params out n) := by
  have passed := s.tick_undisturbed
  simp only [State.busTransfer, State.drawOk_fst, passed.okAt, o, if_true, State.reply, State.drawOk_chip, h,
    State.drawOk_params, passed.params, l, Nat.sub_self, State.drawBytes_fst, List.range_zero, List.map_nil,
    List.append_nil]

/-- `RdSecondsRaw` answered `ok` receives the reversed seconds (R63, R132). -/
theorem State.rdSecondsRaw_of_chip (s : State) (c : Chip) (w : s.params.wf) (h : s.tick.chip = some c)
    (o : s.draws.okAt 0 = true) : s.rdSecondsRaw.1 = some (bitRev c.seconds) := by
  have answer : c.answer s.params [s.addr .seconds true] 1 = [bitRev c.seconds] := c.answer_seconds s.params w
  have received := s.busTransfer_answer_of_tick c [s.addr .seconds true] 1 h o (by rw [answer]; rfl)
  rw [answer] at received
  simp only [State.rdSecondsRaw, received, Option.map_some, byteAt, List.getD_cons_zero]

/-- GET_SECONDS answered `ok` gets the reversed seconds (R63, R130). -/
theorem getSecondsBody_resByte (s : State) (c : Chip) (w : s.params.wf) (h : s.tick.chip = some c)
    (o : s.draws.okAt 0 = true) : (getSecondsBody s).regs.resByte = some (bitRev c.seconds) := by
  rw [getSecondsBody_of_some s _ (s.rdSecondsRaw_of_chip c w h o)]
  rfl

/-- A burst read of at most eight bytes receives the reversed registers in burst order (R50, R63). -/
theorem State.burstRead_received (s : State) (c : Chip) (n : Nat) (le : n ≤ 8) (w : s.params.wf)
    (h : s.tick.chip = some c) (o : s.draws.okAt 0 = true) :
    (s.busTransfer (burstReadOut s) n).1 = some ((burstOrder.take n).map fun r => bitRev (c.get r)) := by
  have answer := c.answer_clockBurst s.params w n
  have length : ((burstOrder.take n).map fun r => bitRev (c.get r)).length = n := by
    simpa [burstOrder] using le
  rw [← answer] at length ⊢
  exact s.busTransfer_answer_of_tick c _ n h o length

/-- GET_CLOCK answered `ok` ends on the reversed clock registers (R67 (b), R140). -/
theorem getClockBody_of_chip (s : State) (c : Chip) (w : s.params.wf) (h : s.tick.chip = some c)
    (o : s.draws.okAt 0 = true) :
    ∃ t, s.Ended t [readEvent (burstReadOut s) [bitRev c.seconds, bitRev c.minutes, bitRev c.hours]] s.regs ∧
      getClockBody s = finishClock [clockByte s.params (bitRev c.seconds), clockByte s.params (bitRev c.minutes),
        clockByte s.params (bitRev c.hours)] t := by
  have received := s.burstRead_received c 3 (by decide) w h o
  obtain ⟨bytes, -, outcome, call⟩ := s.busTransfer_ok (burstReadOut s) 3 o
  obtain rfl := Option.some.inj (outcome.symm.trans received)
  exact ⟨_, call.ended, by rw [getClockBody_of_some s _ received, clockBytes_eq_map]; rfl⟩

/-- GET_CAL_CLOCK answered `ok` ends on the registers themselves (R67 (b), R141). -/
theorem getCalClockBody_of_chip (s : State) (c : Chip) (w : s.params.wf) (h : s.tick.chip = some c)
    (o : s.draws.okAt 0 = true) :
    ∃ t, s.Ended t [readEvent (burstReadOut s) (burstOrder.map fun r => bitRev (c.get r))] s.regs ∧
      getCalClockBody s =
        finishCalClock [c.seconds, c.minutes, c.hours, c.date, c.month, c.day, c.year] t := by
  have received := s.burstRead_received c 8 (by decide) w h o
  obtain ⟨bytes, -, outcome, call⟩ := s.busTransfer_ok (burstReadOut s) 8 o
  obtain rfl := Option.some.inj (outcome.symm.trans received)
  refine ⟨_, call.ended, ?_⟩
  rw [getCalClockBody_of_some s _ received]
  simp only [calBytes, burstOrder, List.take, List.map, bitRev_bitRev]
  rfl

/-! ### The reads against a still chip -/

theorem State.tick_chip_of_still (s : State) (c : Chip) (h : s.chip = some c) (st : s.still c = true) :
    s.tick.chip = some c := by
  rw [s.tick_of_stillChip c h st, h]

/-- Settles O37: the chip is as it was, and each read ends on what it received. -/
theorem readsAgainstChip : Obligations.ReadsAgainstChip := by
  intro s c w h st ready o off
  have still := s.tick_chip_of_still c h st
  refine ⟨⟨_, exec_getSeconds_ready s ready, (getSecondsBody_chip s).trans still, getSecondsBody_resByte s c w still o⟩,
    ⟨_, exec_getClock_ready s ready, (getClockBody_chip s).trans still, fun natural => ?_⟩,
    ⟨_, exec_getCalClock_ready s ready, (getCalClockBody_chip s).trans still, ?_⟩⟩
  · obtain ⟨t, received, body⟩ := getClockBody_of_chip s c w still o
    rw [body, (received.clock _ _ _ (.inl off)).regs]
    simp only [clockByte_natural _ natural, and_self]
  · obtain ⟨t, received, body⟩ := getCalClockBody_of_chip s c w still o
    rw [body, (received.calendar _ _ _ _ _ _ _ (.inl off)).regs]
    refine ⟨rfl, rfl, rfl, fun bcd => ?_, fun plain => ?_, _, rfl, yearOf_toNat _⟩
    · simp only [calRegs, decodeDay, bcd]
    · simp only [calRegs, decodeDay, plain]

/-- A valid BCD byte and its reversal decode alike only when they are the same byte. -/
theorem bcdDec_bitRev_eq_iff (b : Byte) (h : Decimal b) : bcdDec (bitRev b) = bcdDec b ↔ bitRev b = b := by
  have onValid : ∀ b : Byte, bcdValid b = true → bcdDec (bitRev b) = bcdDec b → bitRev b = b := by decide
  exact ⟨onValid b ((bcdValid_iff_decimal b).mpr h), fun e => by rw [e]⟩

/-- Settles O38: the clock fields are the decoded reversals in the one, the decoded registers in the other. -/
theorem burstReadsAgreeOnPalindromes : Obligations.BurstReadsAgreeOnPalindromes := by
  intro s c w h st ready o off natural hs hm hh
  have still := s.tick_chip_of_still c h st
  obtain ⟨t, received, clock⟩ := getClockBody_of_chip s c w still o
  obtain ⟨u, received', cal⟩ := getCalClockBody_of_chip s c w still o
  refine ⟨_, _, exec_getClock_ready s ready, exec_getCalClock_ready s ready, ?_⟩
  rw [clock, cal, (received.clock _ _ _ (.inl off)).regs, (received'.calendar _ _ _ _ _ _ _ (.inl off)).regs]
  simp only [Regs.clk, calRegs, clockByte_natural _ natural, Prod.mk.injEq, Option.some.injEq,
    bcdDec_bitRev_eq_iff _ hs, bcdDec_bitRev_eq_iff _ hm, bcdDec_bitRev_eq_iff _ hh]

/-! ### SET_SECONDS -/

/-- The chip after a SECONDS write, from the chip as it is once time has passed (R60, R61, R65): an `ok` write under
write-protect leaves it, an `ok` write stores the encoded byte, a failed one a draw. -/
theorem State.wrSeconds_chip (v : Nat) (s : State) (c : Chip) (w : s.params.wf)
    (h : (s.bcdEnc v).2.tick.chip = some c) :
    (s.draws.okAt 0 = true → c.writeProtected s.params = true → (s.wrSeconds v).2.chip = some c) ∧
    (s.draws.okAt 0 = true → c.writeProtected s.params = false →
      (s.wrSeconds v).2.chip = some { c with seconds := (s.bcdEnc v).1 }) ∧
    (s.draws.okAt 0 = false →
      (s.wrSeconds v).2.chip = some { c with seconds := (s.bcdEnc v).2.tick.draws.byteAt 0 }) := by
  have drawn := s.bcdEnc_undisturbed v
  have left := (s.bcdEnc v).2.busWrite_chip_of_tick c (secFrame v s) h
  have written : c.writes s.params (secFrame v s) =
      if c.writeProtected s.params then [] else [(.seconds, some (s.bcdEnc v).1)] := by
    rw [← bitRev_bitRev (s.bcdEnc v).1]
    exact c.writes_seconds s.params w _
  have failed : failedTargets s.params (secFrame v s) = [.seconds] := failedTargets_seconds s.params w _
  rw [drawn.okAt, drawn.params, written, failed] at left
  refine ⟨fun o wp => left.trans ?_, fun o wp => left.trans ?_, fun o => left.trans ?_⟩
  · rw [o, wp]; rfl
  · rw [o, wp]; rfl
  · rw [o]; rfl

/-- Encoding the operand leaves a still chip still. -/
theorem State.tick_bcdEnc_of_still (v : Nat) (s : State) (c : Chip) (h : s.chip = some c) (st : s.still c = true) :
    (s.bcdEnc v).2.tick = (s.bcdEnc v).2 := by
  refine State.tick_of_stillChip _ c ((s.bcdEnc_chip v).trans h) ?_
  rw [State.still, (s.bcdEnc_undisturbed v).params]
  exact st

/-- A value in 0..99 is stored as its BCD byte (R100, R133). -/
theorem encodes_bcdEnc (v : Nat) (s : State) (h : v ≤ 99) : Encodes v (s.bcdEnc v).1 := by
  rw [State.bcdEnc_of_le h]
  exact encodes_bcdPack v h

/-- Draws that fail the next call and give the byte `x` twice, so that a BCD draw before the failed write does not
matter. -/
def Draws.failThen (x : Byte) : Draws where
  oks := [false]
  okIndex := 0
  bytes := [x, x]
  byteIndex := 0

/-- Whether or not the operand takes a draw, the next one is `x`. -/
theorem bcdEnc_failThen (v : Nat) (s : State) (x : Byte) :
    ({ s with draws := Draws.failThen x }.bcdEnc v).2.draws.byteAt 0 = x := by
  by_cases h : v ≤ 99
  · rw [State.bcdEnc_of_le h]; rfl
  · rw [State.bcdEnc_of_gt (by omega)]; rfl

/-- The SECONDS write on a still chip. -/
theorem State.wrSeconds_chip_of_still (v : Nat) (s : State) (c : Chip) (w : s.params.wf) (h : s.chip = some c)
    (st : s.still c = true) :
    (s.draws.okAt 0 = true → c.writeProtected s.params = true → (s.wrSeconds v).2.chip = some c) ∧
    (s.draws.okAt 0 = true → c.writeProtected s.params = false →
      (s.wrSeconds v).2.chip = some { c with seconds := (s.bcdEnc v).1 }) ∧
    (s.draws.okAt 0 = false →
      (s.wrSeconds v).2.chip = some { c with seconds := (s.bcdEnc v).2.draws.byteAt 0 }) := by
  have still := s.tick_bcdEnc_of_still v c h st
  have ends := s.wrSeconds_chip v c w (by rw [still, s.bcdEnc_chip, h])
  rwa [still] at ends

/-- Settles O39: the three ends of the SECONDS write; the draws that give `x` after an `err` are `Draws.failThen`. -/
theorem setSecondsAgainstChip : Obligations.SetSecondsAgainstChip := by
  intro v s c w h st ready
  obtain ⟨kept, stored, failed⟩ := s.wrSeconds_chip_of_still v.toNat c w h st
  have regs := (setSeconds_ended v.toNat s).regs
  refine ⟨fun o => ?_, fun o => ?_, fun x => ?_⟩
  · refine ⟨_, _, exec_setSeconds_ready v s ready, by rw [regs, o]; rfl, ?_, ?_, encodes_bcdEnc v.toNat s⟩
    · exact fun wp => (State.endWrite_chip _).trans (kept o wp)
    · exact fun wp => (State.endWrite_chip _).trans (stored o wp)
  · exact ⟨_, _, exec_setSeconds_ready v s ready, by rw [regs, o]; rfl, (State.endWrite_chip _).trans (failed o)⟩
  · obtain ⟨-, -, drawn⟩ := State.wrSeconds_chip_of_still v.toNat { s with draws := Draws.failThen x } c w h st
    have chip := drawn rfl
    rw [bcdEnc_failThen] at chip
    exact ⟨Draws.failThen x, _, rfl, exec_setSeconds_ready v { s with draws := Draws.failThen x } ready,
      (State.endWrite_chip _).trans chip⟩

/-! ### A running chip under free ticks -/

/-- What time keeps of a chip (R64): write-protect and the RAM, and the clock goes on running. -/
theorem Chip.ticked_keeps (c : Chip) (s : State) :
    (c.ticked s).1.halted = false ∧ (c.ticked s).1.writeProtect = c.writeProtect ∧ (c.ticked s).1.ram = c.ram := by
  rw [Chip.ticked_fst]
  refine ⟨?_, rfl, rfl⟩
  simp [Chip.halted]

/-- Whether or not time passes before a call, a running chip keeps running (R64). -/
theorem State.tick_chip_of_running (s : State) (c : Chip) (h : s.chip = some c) (running : c.halted = false) :
    ∃ c', s.tick.chip = some c' ∧ c'.halted = false ∧ c'.writeProtect = c.writeProtect ∧ c'.ram = c.ram := by
  by_cases passes : s.params.chipTicks = .free ∧ s.history ≠ []
  · obtain ⟨free, called⟩ := passes
    rw [s.tick_of_running c h free running called]
    exact ⟨_, rfl, c.ticked_keeps s⟩
  · have frozen : s.params.chipTicks = .frozen ∨ s.history = [] := by
      cases hf : s.params.chipTicks with
      | frozen => exact .inl rfl
      | free => exact .inr (by simpa [hf] using passes)
    rw [s.tick_of_still (.inr frozen)]
    exact ⟨c, h, running, rfl, rfl⟩

/-- Settles O44: the SECONDS write on the chip as time left it. -/
theorem setSecondsAgainstRunningChip : Obligations.SetSecondsAgainstRunningChip := by
  intro v s c w h free running ready o
  obtain ⟨c', passed, running', wpSame, ramSame⟩ :=
    (s.bcdEnc v.toNat).2.tick_chip_of_running c ((s.bcdEnc_chip v.toNat).trans h) running
  obtain ⟨kept, stored, -⟩ := s.wrSeconds_chip v.toNat c' w passed
  have regs := (setSeconds_ended v.toNat s).regs
  rw [o] at regs
  have sameFlag : c'.writeProtected s.params = c.writeProtected s.params := by
    rw [Chip.writeProtected, wpSame, Chip.writeProtected]
  rw [sameFlag] at kept stored
  cases wp : c.writeProtected s.params with
  | true =>
    exact ⟨_, c', exec_setSeconds_ready v s ready, regs, (State.endWrite_chip _).trans (kept o wp), wpSame, ramSame,
      fun _ => running', nofun⟩
  | false =>
    exact ⟨_, _, exec_setSeconds_ready v s ready, regs, (State.endWrite_chip _).trans (stored o wp), wpSame, ramSame,
      nofun, fun _ => encodes_bcdEnc v.toNat s⟩

/-! ### SET_CAL_CLOCK on a still chip -/

/-- With every field in its source range the frame draws nothing (R79, R142). -/
theorem State.calFrame_of_inCalendar (p : Ports) (s : State) (h : inCalendar p) :
    s.calFrame p = ([s.burstWriteAddr, bitRev (bcdPack p.secIn.toNat), bitRev (bcdPack p.minIn.toNat),
      bitRev (bcdPack p.hourIn.toNat), bitRev (bcdPack p.dateIn.toNat), bitRev (bcdPack p.monthIn.toNat),
      bitRev (bcdPack p.dayIn.toNat), bitRev (bcdPack (p.yearIn.toNat - 2000)), 0x00], s) := by
  obtain ⟨yearLow, yearHigh, -, month, -, date, -, day, hour, min, sec⟩ := h
  simp only [State.calFrame, State.bcdYear_of_range yearLow yearHigh,
    State.bcdEnc_of_le (show p.secIn.toNat ≤ 99 by omega), State.bcdEnc_of_le (show p.minIn.toNat ≤ 99 by omega),
    State.bcdEnc_of_le (show p.hourIn.toNat ≤ 99 by omega), State.bcdEnc_of_le (show p.dateIn.toNat ≤ 99 by omega),
    State.bcdEnc_of_le (show p.monthIn.toNat ≤ 99 by omega), State.bcdEnc_of_le (show p.dayIn.toNat ≤ 99 by omega)]

/-- The chip that holds the fields of a SET_CAL_CLOCK (R62), with the RAM of `c`. -/
def Chip.ofPorts (p : Ports) (c : Chip) : Chip where
  seconds := bcdPack p.secIn.toNat
  minutes := bcdPack p.minIn.toNat
  hours := bcdPack p.hourIn.toNat
  date := bcdPack p.dateIn.toNat
  month := bcdPack p.monthIn.toNat
  day := bcdPack p.dayIn.toNat
  year := bcdPack (p.yearIn.toNat - 2000)
  writeProtect := 0
  ram := c.ram

/-- The nine-byte frame stores its fields in burst order, write-protect last (R50, R62). -/
theorem State.storeAll_burstWrites (p : Ports) (c : Chip) (s : State) :
    (State.storeAll c (burstWrites [bitRev (bcdPack p.secIn.toNat), bitRev (bcdPack p.minIn.toNat),
      bitRev (bcdPack p.hourIn.toNat), bitRev (bcdPack p.dateIn.toNat), bitRev (bcdPack p.monthIn.toNat),
      bitRev (bcdPack p.dayIn.toNat), bitRev (bcdPack (p.yearIn.toNat - 2000)), 0x00]) s).1 = Chip.ofPorts p c := by
  have zero : bitRev 0#8 = 0#8 := by decide
  simp [burstWrites, burstOrder, State.storeAll, Chip.set, Chip.ofPorts, zero]

/-- The chip takes the command byte as a CLOCK_BURST write when it goes out reversed, or is its own reversal (R145). -/
theorem State.chipCommand_burstWriteAddr (s : State) (w : s.params.wf)
    (h : s.params.burstWriteAddrReversed = true ∨
      bitRev (s.params.nat.get .clockBurst) = s.params.nat.get .clockBurst) :
    chipCommand s.params s.burstWriteAddr = .write .clockBurst := by
  rw [chipCommand_eq_write_iff _ w, s.burstWriteAddr_eq]
  split
  · exact bitRev_bitRev _
  · rename_i natural
    exact h.resolve_left natural

theorem State.burstHitsRam_of_takes (s : State) (takes : chipCommand s.params s.burstWriteAddr = .write .clockBurst) :
    s.burstHitsRam = false := by
  simp [State.burstHitsRam, isRamWrite, takes]

/-- SET_CAL_CLOCK answered `ok`, its fields in range, on a still chip that takes the command byte (R61, R62). -/
theorem setCalClock_on_stillChip (p : Ports) (s : State) (c : Chip)
    (takes : chipCommand s.params s.burstWriteAddr = .write .clockBurst) (h : s.chip = some c) (st : s.still c = true)
    (ready : s.regs.initState = .ready) (o : s.draws.okAt 0 = true) (cal : inCalendar p) :
    ∃ f t, exec (.setCalClock p) s = .next t ∧ s.Ended t [writeEvent f true] { s.regs with err := .ok } ∧
      t.chip = some (if c.writeProtected s.params then c else Chip.ofPorts p c) := by
  have ended := setCalClock_ended p s
  rw [o] at ended
  refine ⟨_, _, exec_setCalClock_ready p s ready (s.burstHitsRam_of_takes takes), ended, ?_⟩
  rw [State.endWrite_chip, s.calFrame_of_inCalendar p cal, s.busWrite_chip c _ h (s.tick_of_stillChip c h st), o,
    if_pos rfl, c.writes_clockBurst _ _ _ takes]
  split
  · rfl
  · rw [State.storeAll_burstWrites]

/-- Settles O40: under write-protect the chip is `c`, and else it holds the fields. -/
theorem setCalClockAgainstChip : Obligations.SetCalClockAgainstChip := by
  intro p s c w reversed h st ready o cal
  have takes := s.chipCommand_burstWriteAddr w (.inl reversed)
  obtain ⟨f, t, he, ended, chip⟩ := setCalClock_on_stillChip p s c takes h st ready o cal
  refine ⟨t, he, by rw [ended.regs], fun wp => by rw [chip, if_pos wp], fun wp => ?_⟩
  obtain ⟨yearLow, yearHigh, -, month, -, date, -, day, hour, min, sec⟩ := cal
  exact ⟨Chip.ofPorts p c, by rw [chip, wp]; rfl, encodes_bcdPack _ (by omega), encodes_bcdPack _ (by omega),
    encodes_bcdPack _ (by omega), encodes_bcdPack _ (by omega), encodes_bcdPack _ (by omega),
    encodes_bcdPack _ (by omega), encodes_bcdPack _ (by omega), rfl, rfl⟩

/-- A byte whose reversal has bit 0 set is no write of any register: the natural constants are even (R59, R75 (b)). -/
theorem chipCommand_ne_write_of_odd (p : Params) (w : p.wf) (x : Byte) (odd : (bitRev x).getLsbD 0 = true) (r : RegId) :
    chipCommand p x ≠ .write r := by
  rw [Ne, chipCommand_eq_write_iff p w]
  intro natural
  obtain ⟨-, even, -⟩ := (wf_iff p).1 w
  rw [natural, even r] at odd
  cases odd

/-- Settles O41: the frame is a mismatch, so it writes nothing and is refused by nothing. -/
theorem unreversedBurstWriteIgnored : Obligations.UnreversedBurstWriteIgnored := by
  intro p s c w unreversed odd h st ready o
  have noWrite : ∀ r, chipCommand s.params s.burstWriteAddr ≠ .write r := by
    rw [s.burstWriteAddr_eq, unreversed]
    exact chipCommand_ne_write_of_odd s.params w _ odd
  have notRam : s.burstHitsRam = false := by
    rw [← Bool.not_eq_true, State.burstHitsRam, Bool.and_eq_true, isRamWrite_iff]
    simp [noWrite]
  obtain ⟨drawn, chip⟩ := s.calFrame_undisturbed p
  have regs := (setCalClock_ended p s).regs
  rw [o] at regs
  have still : (s.calFrame p).2.still c = true := by rw [State.still, drawn.params]; exact st
  refine ⟨_, exec_setCalClock_ready p s ready notRam, (State.endWrite_chip _).trans ?_, regs⟩
  refine State.busWrite_chip_of_no_writes _ c _ (chip.trans h) (State.tick_of_stillChip _ c (chip.trans h) still)
    (by rw [drawn.okAt, o]) ?_
  rw [drawn.params]
  exact c.writes_mismatch s.params s.burstWriteAddr _ noWrite

/-! ### The round trip (R145) -/

theorem bcdDec_bcdPack_toNat (v : Byte) (h : v.toNat ≤ 99) : bcdDec (bcdPack v.toNat) = v :=
  BitVec.eq_of_toNat_eq (bcdDec_bcdPack v.toNat h)

/-- One decimal digit is its own BCD byte. -/
theorem bcdPack_digit (v : Byte) (h : v.toNat ≤ 9) : bcdPack v.toNat = v := by
  refine BitVec.eq_of_toNat_eq ?_
  rw [bcdPack_toNat _ (by omega)]
  omega

/-- The day comes back under either reading, since it is one digit (R141, C6). -/
theorem decodeDay_bcdPack (q : Params) (v : Byte) (h : v.toNat ≤ 9) : decodeDay q (bcdPack v.toNat) = v := by
  cases hd : q.dayDecode with
  | bcd => simp only [decodeDay, hd, bcdDec_bcdPack_toNat v (by omega)]
  | plain => simp only [decodeDay, hd, bcdPack_digit v h]

theorem yearOf_bcdPack (y : Half) (low : 2000 ≤ y.toNat) (high : y.toNat ≤ 2099) :
    yearOf (bcdDec (bcdPack (y.toNat - 2000))) = y := by
  refine BitVec.eq_of_toNat_eq ?_
  rw [yearOf_toNat, bcdDec_bcdPack _ (by omega)]
  omega

/-- The registers GET_CAL_CLOCK leaves from a chip that holds the fields of `p`. -/
theorem calRegs_ofPorts (q : Params) (r : Regs) (p : Ports) (c : Chip) (cal : inCalendar p) :
    calRegs q r (Chip.ofPorts p c).seconds (Chip.ofPorts p c).minutes (Chip.ofPorts p c).hours (Chip.ofPorts p c).date
      (Chip.ofPorts p c).month (Chip.ofPorts p c).day (Chip.ofPorts p c).year =
    { r with
      err := .ok, resSec := some p.secIn, resMin := some p.minIn, resHour := some p.hourIn, resYear := some p.yearIn,
      resMonth := some p.monthIn, resDate := some p.dateIn, resDay := some p.dayIn } := by
  obtain ⟨yearLow, yearHigh, -, month, -, date, -, day, hour, min, sec⟩ := cal
  simp only [calRegs, Chip.ofPorts, bcdDec_bcdPack_toNat p.secIn (by omega), bcdDec_bcdPack_toNat p.minIn (by omega),
    bcdDec_bcdPack_toNat p.hourIn (by omega), bcdDec_bcdPack_toNat p.dateIn (by omega),
    bcdDec_bcdPack_toNat p.monthIn (by omega), decodeDay_bcdPack q p.dayIn (by omega),
    yearOf_bcdPack p.yearIn yearLow yearHigh]

/-- The optional check accepts what SET_CAL_CLOCK stored (R165). -/
theorem checkedCalBytes_ofPorts (q : Params) (p : Ports) (c : Chip) (cal : inCalendar p) :
    (checkedCalBytes q [(Chip.ofPorts p c).seconds, (Chip.ofPorts p c).minutes, (Chip.ofPorts p c).hours,
      (Chip.ofPorts p c).date, (Chip.ofPorts p c).month, (Chip.ofPorts p c).day, (Chip.ofPorts p c).year]).all
        bcdValid = true := by
  obtain ⟨yearLow, yearHigh, -, month, -, date, -, day, hour, min, sec⟩ := cal
  rw [checkedCalBytes_valid_iff]
  exact ⟨decimal_bcdPack _ (by omega), decimal_bcdPack _ (by omega), decimal_bcdPack _ (by omega),
    decimal_bcdPack _ (by omega), decimal_bcdPack _ (by omega), fun _ => decimal_bcdPack _ (by omega),
    decimal_bcdPack _ (by omega)⟩

/-- Settles O46: the write leaves the fields on the chip, and the read decodes them. -/
theorem calendarRoundTrip : Obligations.CalendarRoundTrip := by
  intro p s c w h frozen unprotected takes ready o0 o1 cal
  have still : s.still c = true := by simp [State.still, frozen]
  obtain ⟨f, t, he, written, chip⟩ :=
    setCalClock_on_stillChip p s c (s.chipCommand_burstWriteAddr w takes) h still ready o0 cal
  rw [unprotected] at chip
  have tick : t.tick = t := t.tick_of_still (.inr (.inl (by rw [written.params, frozen])))
  obtain ⟨u, received, body⟩ := getCalClockBody_of_chip t (Chip.ofPorts p c) (by rw [written.params, w])
    (by rw [tick, chip]; rfl) ((written.okAt 0).trans o1)
  have regs := (received.calendar _ _ _ _ _ _ _ (.inr (checkedCalBytes_ofPorts t.params p c cal))).regs
  refine ⟨t, _, he, exec_getCalClock_ready t (by rw [written.regs, ready]), ?_⟩
  rw [body, regs, calRegs_ofPorts _ _ p c cal, written.regs]

/-! ### INIT with frozen ticks -/

/-- The write of step 1 clears write-protect, whatever it was (R61, R120). -/
theorem busWrite_wp_chip (s : State) (c : Chip) (w : s.params.wf) (h : s.chip = some c) (t : s.tick = s)
    (o : s.draws.okAt 0 = true) : (s.busWrite (wpFrame s)).2.chip = some { c with writeProtect := 0 } := by
  have written : c.writes s.params (wpFrame s) = [(.writeProtect, some 0)] := c.writes_writeProtect s.params w 0x00
  rw [s.busWrite_chip c _ h t, o, if_pos rfl, written]
  rfl

theorem Chip.writeProtected_zero (p : Params) (c : Chip) :
    Chip.writeProtected p { c with writeProtect := 0 } = false := by
  simp [Chip.writeProtected]

/-- Bit 7 of the byte as received is bit 0 of the seconds (R58, C5). -/
theorem bitRev_getLsbD_seven (b : Byte) : (bitRev b).getLsbD 7 = b.getLsbD 0 := bitRev_getLsbD b 7 (by decide)

/-- The third step on a still chip with write-protect clear: seconds 0 exactly when bit 7 of `b` is set (R120, R123). -/
theorem initStep3_chip (b : Byte) (s : State) (c : Chip) (w : s.params.wf) (h : s.chip = some c)
    (st : s.still c = true) (unprotected : c.writeProtected s.params = false) (o : s.draws.okAt 0 = true) :
    (initStep3 b s).chip = some { c with seconds := if b.getLsbD 7 then 0 else c.seconds } := by
  cases hb : b.getLsbD 7 with
  | false =>
    rw [initStep3_of_clear b s hb]
    exact h
  | true =>
    obtain ⟨-, stored, -⟩ := s.wrSeconds_chip_of_still 0 c w h st
    rw [initStep3_of_ok b s hb ((s.wrSeconds_spec 0).1.trans o)]
    refine (stored o unprotected).trans ?_
    rw [State.bcdEnc_of_le (by decide)]
    rfl

/-- INIT's three calls answered `ok` against a chip with frozen ticks: write-protect goes first, so step 3 is stored. -/
theorem initBody_chip (s : State) (c : Chip) (w : s.params.wf) (h : s.chip = some c)
    (frozen : s.params.chipTicks = .frozen) (o0 : s.draws.okAt 0 = true) (o1 : s.draws.okAt 1 = true)
    (o2 : s.draws.okAt 2 = true) :
    (initBody s).chip = some { c with
      writeProtect := 0, seconds := if c.seconds.getLsbD 0 then 0 else c.seconds } := by
  have tick : ∀ t : State, t.params = s.params → t.tick = t := fun t same =>
    t.tick_of_still (.inr (.inl (same ▸ frozen)))
  obtain ⟨outcome, sent⟩ := s.busWrite_spec (wpFrame s)
  have chip1 := busWrite_wp_chip s c w h (tick s rfl) o0
  rw [initBody_of_ok s (outcome.trans o0)]
  generalize (s.busWrite (wpFrame s)).2 = s1 at sent chip1 ⊢
  have o1' : s1.draws.okAt 0 = true := (sent.okAt 0).trans o1
  have read := s1.rdSecondsRaw_of_chip _ (by rw [sent.params, w]) ((congrArg _ (tick s1 sent.params)).trans chip1) o1'
  have chip2 : s1.rdSecondsRaw.2.chip = some { c with writeProtect := 0 } :=
    (s1.busTransfer_chip _ 1 (tick s1 sent.params)).trans chip1
  obtain ⟨b, -, received⟩ := s1.rdSecondsRaw_ok o1'
  rw [initStep2_of_some s1 _ read]
  generalize s1.rdSecondsRaw.2 = s2 at received chip2 ⊢
  have params : s2.params = s.params := received.params.trans sent.params
  rw [initStep3_chip _ s2 _ (by rw [params, w]) chip2 (by simp [State.still, params, frozen])
    (Chip.writeProtected_zero _ c) (by rw [received.okAt, sent.okAt, o2]), bitRev_getLsbD_seven]

/-- Settles O45: the registers from O23, the chip from INIT's three calls. -/
theorem initAgainstChip : Obligations.InitAgainstChip := by
  intro s c w h frozen uninit o0 o1 o2
  obtain ⟨-, t, he, -, regs, -⟩ := initClearsAndBecomesReady s w uninit o0 o1 o2
  refine ⟨t, he, regs, ?_⟩
  rw [exec_init_uninit s uninit] at he
  cases he
  exact initBody_chip s c w h frozen o0 o1 o2

end Sys2Proof.Machine
end

section
/-! SUPPORT. What draws can make of a command: the values a failed burst write and free ticks leave (R64, R65, R190),
and the oracle in place of the chip (R43). Each operation is replayed from another launch of its state, with the draws
that make it do the same again listed first. -/

namespace Sys2Proof.Machine

/-! ### The reads under free ticks (R64) -/

/-- The three reads in READY: the chip is left as time left it. -/
theorem exec_read_ready (i : Instr) (s : State) (h : i = .getSeconds ∨ i = .getClock ∨ i = .getCalClock)
    (ready : s.regs.initState = .ready) :
    ∃ t, exec i s = .next t ∧ t.chip = s.tick.chip ∧ (i = .getSeconds → t = getSecondsBody s) := by
  obtain rfl | rfl | rfl := h
  · exact ⟨_, exec_getSeconds_ready s ready, getSecondsBody_chip s, fun _ => rfl⟩
  · exact ⟨_, exec_getClock_ready s ready, getClockBody_chip s, nofun⟩
  · exact ⟨_, exec_getCalClock_ready s ready, getCalClockBody_chip s, nofun⟩

/-- The draws that let time bring a running chip to `v`. -/
def Draws.towards (v : Chip) (d : Draws) : Draws :=
  { d with bytes := [v.seconds, v.minutes, v.hours, v.date, v.month, v.day, v.year] }

theorem and_runMask_of_running (b : Byte) (h : b.getLsbD 7 = false) : b &&& 0x7F = b := by
  revert b
  decide

theorem Chip.ticked_towards (c v : Chip) (s : State) (running : v.halted = false)
    (wp : v.writeProtect = c.writeProtect) (ram : v.ram = c.ram) :
    (c.ticked { s with draws := s.draws.towards v }).1 = v := by
  rw [Chip.ticked_fst, ← wp, ← ram]
  simp only [Draws.byteAt, Draws.towards, List.getElem?_cons_zero, List.getElem?_cons_succ, Option.getD_some,
    and_runMask_of_running _ running]

/-- Settles O43: the reads leave what time left; the draws that bring the chip to `v` are `Draws.towards v`. -/
theorem freeTicksMoveRunningChip : Obligations.FreeTicksMoveRunningChip := by
  intro i s c hi h free ready
  refine ⟨fun stands => ?_, fun running called => ⟨?_, fun v vRunning wp ram => ?_⟩⟩
  · obtain ⟨t, he, chip, -⟩ := exec_read_ready i s hi ready
    have tick : s.tick = s := by
      obtain halted | first := stands
      · exact s.tick_of_halted c h halted
      · exact s.tick_of_still (.inr (.inr first))
    exact ⟨t, he, by rw [chip, tick, h]⟩
  · obtain ⟨t, he, chip, seconds⟩ := exec_read_ready i s hi ready
    obtain ⟨c', passed, running', wp, ram⟩ := s.tick_chip_of_running c h running
    exact ⟨t, c', he, chip.trans passed, running', wp, ram, fun isSeconds w o => by
      rw [seconds isSeconds, getSecondsBody_resByte s c' w passed o]⟩
  · obtain ⟨t, he, chip, -⟩ := exec_read_ready i { s with draws := s.draws.towards v } hi ready
    refine ⟨s.draws.towards v, t, rfl, he, chip.trans ?_⟩
    rw [State.tick_of_running { s with draws := s.draws.towards v } c h free running called, State.setChip_chip,
      c.ticked_towards v s vRunning wp ram]

/-! ### Another launch of a state -/

/-- The state with another chip and other draws. -/
def State.launch (s : State) (chip : Option Chip) (d : Draws) : State := { s with chip := chip, draws := d }

/-- The operation does on another launch of `s` what it does on `s`, for some draws listed first: it gives the same
result, and leaves the launch of its end state with the draws that were listed after them. -/
def Replays {α : Type} (chip : Option Chip) (op : State → α × State) (s : State) : Prop :=
  ∃ os bs, ∀ os' a bs' b, op (s.launch chip ⟨os ++ os', a, bs ++ bs', b⟩) =
    ((op s).1, (op s).2.launch chip ⟨os', a + os.length, bs', b + bs.length⟩)

section
variable {α β : Type} {chip : Option Chip} {op : State → α × State} {s : State}

/-- An operation that draws nothing and does not look at the chip. -/
theorem Replays.pure (h : ∀ d, op (s.launch chip d) = ((op s).1, (op s).2.launch chip d)) : Replays chip op s :=
  ⟨[], [], fun _ _ _ _ => h _⟩

/-- One operation after another: `k` is what `f` does once `op` has given the result it gives on `s`. -/
theorem Replays.bind {f k : State → β × State} (first : Replays chip op s) (second : Replays chip k (op s).2)
    (split : ∀ c d, (op (s.launch c d)).1 = (op s).1 → f (s.launch c d) = k (op (s.launch c d)).2) :
    Replays chip f s := by
  obtain ⟨os, bs, first⟩ := first
  obtain ⟨os', bs', second⟩ := second
  have here : f s = k (op s).2 := split s.chip s.draws rfl
  refine ⟨os ++ os', bs ++ bs', fun os'' a bs'' b => ?_⟩
  rw [here, split _ _ (by rw [List.append_assoc, List.append_assoc, first]), List.append_assoc, List.append_assoc,
    first, second, List.length_append, List.length_append, Nat.add_assoc, Nat.add_assoc]

/-- The same where what follows is replayed whatever the result. -/
theorem Replays.chain {k : α → State → β × State} (first : Replays chip op s) (second : ∀ x t, Replays chip (k x) t) :
    Replays chip (fun u => k (op u).1 (op u).2) s :=
  first.bind (second _ _) fun _ _ same => by rw [same]

end

/-! ### The operands' draws -/

theorem State.draw8_replays (chip : Option Chip) (s : State) : Replays chip State.draw8 s :=
  ⟨[], [s.draw8.1], fun _ _ _ _ => rfl⟩

theorem State.bcdEnc_replays (chip : Option Chip) (v : Nat) (s : State) : Replays chip (State.bcdEnc v) s := by
  by_cases h : v ≤ 99
  · exact .pure fun _ => by rw [State.bcdEnc_of_le h, State.bcdEnc_of_le h]
  · have drawn : State.bcdEnc v = State.draw8 := funext (State.bcdEnc_of_gt (by omega))
    exact drawn ▸ s.draw8_replays chip

theorem State.bcdYear_replays (chip : Option Chip) (y : Half) (s : State) : Replays chip (State.bcdYear y) s := by
  cases h : yearInRange y with
  | true =>
    have encoded : State.bcdYear y = State.bcdEnc (y.toNat - 2000) := funext fun t => by simp [State.bcdYear, h]
    exact encoded ▸ s.bcdEnc_replays chip _
  | false =>
    have drawn : State.bcdYear y = State.draw8 := funext fun t => by simp [State.bcdYear, h]
    exact drawn ▸ s.draw8_replays chip

/-- The frame F_CAL_WR of its command byte and encoded operands, as an operation (R79). -/
def calFrameOf (a0 y sec min hour date month day : Byte) (s : State) : List Byte × State :=
  ([a0, bitRev sec, bitRev min, bitRev hour, bitRev date, bitRev month, bitRev day, bitRev y, 0x00], s)

/-- The frame is replayed operand by operand, in the order of their draws (R142, log entry 12). -/
theorem State.calFrame_replays (chip : Option Chip) (p : Ports) (s : State) : Replays chip (State.calFrame p) s :=
  have addr : Replays chip (fun u => (u.burstWriteAddr, u)) s := .pure fun _ => rfl
  addr.chain fun a0 t => (t.bcdYear_replays chip p.yearIn).chain
    fun y t => (t.bcdEnc_replays chip p.secIn.toNat).chain
    fun sec t => (t.bcdEnc_replays chip p.minIn.toNat).chain
    fun min t => (t.bcdEnc_replays chip p.hourIn.toNat).chain
    fun hour t => (t.bcdEnc_replays chip p.dateIn.toNat).chain
    fun date t => (t.bcdEnc_replays chip p.monthIn.toNat).chain
    fun month t => (t.bcdEnc_replays chip p.dayIn.toNat).chain
    fun day _ => .pure (op := calFrameOf a0 y sec min hour date month day) fun _ => rfl

/-! ### A failed SET_CAL_CLOCK (R190, I3) -/

/-- Time passing takes no byte, or seven, before the bytes that follow (R64). -/
theorem State.tick_launch (s : State) (c : Chip) :
    ∃ before, ∀ os a bs b, ∃ b' c', (s.launch (some c) ⟨os, a, before ++ bs, b⟩).tick.draws = ⟨os, a, bs, b'⟩ ∧
      (s.launch (some c) ⟨os, a, before ++ bs, b⟩).tick.chip = some c' ∧ c'.ram = c.ram := by
  by_cases passes : s.params.chipTicks = .free ∧ c.halted = false ∧ s.history ≠ []
  · obtain ⟨free, running, called⟩ := passes
    have moved : ∀ d, (s.launch (some c) d).tick = _ := fun d =>
      (s.launch (some c) d).tick_of_running c rfl free running called
    refine ⟨[0, 0, 0, 0, 0, 0, 0], fun os a bs b => ?_⟩
    obtain ⟨-, -, ram⟩ := c.ticked_keeps (s.launch (some c) ⟨os, a, [0, 0, 0, 0, 0, 0, 0] ++ bs, b⟩)
    rw [moved]
    exact ⟨_, _, rfl, rfl, ram⟩
  · refine ⟨[], fun os a bs b => ⟨b, c, ?_⟩⟩
    have stands : (s.launch (some c) ⟨os, a, [] ++ bs, b⟩).tick = s.launch (some c) ⟨os, a, bs, b⟩ := if_neg passes
    rw [stands]
    exact ⟨rfl, rfl, rfl⟩

/-- The registers of a chip in burst order (R50). -/
def Chip.burstBytes (v : Chip) : List Byte :=
  [v.seconds, v.minutes, v.hours, v.date, v.month, v.day, v.year, v.writeProtect]

/-- A failed burst frame leaves the chip whose registers the draws list (R65, R190). -/
theorem State.busWrite_failed_chip (s : State) (frame : List Byte) (c v : Chip) (os : List Bool) (a b : Nat)
    (h : s.tick.chip = some c) (ram : v.ram = c.ram) (failed : s.draws.okAt 0 = false)
    (targets : failedTargets s.params frame = burstOrder) (draws : s.tick.draws = ⟨os, a, v.burstBytes, b⟩) :
    (s.busWrite frame).2.chip = some v := by
  rw [s.busWrite_chip_of_tick c frame h, failed, targets, if_neg (by decide), State.storeAll_burstDraws,
    State.drawOk_draws, Draws.dropOk_byteAt, draws, ← ram]
  rfl

/-- Some draws make a failed SET_CAL_CLOCK leave the chip `v`: the operands take theirs, then time, then the chip. -/
theorem exists_draws_failed_setCalClock (p : Ports) (s : State) (c v : Chip) (h : s.chip = some c)
    (ready : s.regs.initState = .ready) (sent : s.burstHitsRam = false) (ram : v.ram = c.ram) :
    ∃ (d : Draws) (t : State), d.okAt 0 = false ∧ exec (.setCalClock p) { s with draws := d } = .next t ∧
      t.chip = some v := by
  obtain ⟨os, bs, frame⟩ := s.calFrame_replays s.chip p
  obtain ⟨before, passes⟩ := (s.calFrame p).2.tick_launch c
  have sent' : ∀ d, (s.launch s.chip d).burstHitsRam = false := fun _ => sent
  specialize frame [false] 0 (before ++ v.burstBytes) 0
  obtain ⟨b, c', draws, chip, ram'⟩ := passes [false] (0 + os.length) v.burstBytes (0 + bs.length)
  generalize Draws.mk (os ++ [false]) 0 (bs ++ (before ++ v.burstBytes)) 0 = d at frame
  obtain ⟨drawn, -⟩ := (s.launch s.chip d).calFrame_undisturbed p
  have failed := congrFun drawn.okAt 0
  rw [frame] at failed
  refine ⟨d, _, failed.symm, exec_setCalClock_ready p (s.launch s.chip d) ready (sent' d), ?_⟩
  rw [State.endWrite_chip, frame, h]
  exact State.busWrite_failed_chip _ _ c' v _ _ _ chip (ram.trans ram'.symm) rfl rfl draws

/-- Settles O42: the registers from the failed call; any chip with the RAM of `c` by the draws above. -/
theorem failedSetCalClockAgainstChip : Obligations.FailedSetCalClockAgainstChip := by
  intro p s c h ready sent
  refine ⟨fun o => ?_, fun v => exists_draws_failed_setCalClock p s c v h ready sent⟩
  obtain ⟨regs, -, -, -, chip, -⟩ := setCalClock_ended p s
  rw [o] at regs
  rw [h] at chip
  obtain ⟨c', hc, hram⟩ := Option.map_eq_some_iff.mp chip
  exact ⟨_, c', exec_setCalClock_ready p s ready sent, regs, hc, hram⟩

/-! ### The oracle in place of the chip (R43) -/

/-- A call made is seen in another launch as its recorded event. -/
theorem State.Called.launch {s t : State} {e : Event} (call : s.Called t e) (chip : Option Chip) (d : Draws) :
    t.launch chip d = (s.record e).launch chip d := by
  simp only [State.launch, State.record, call.regs, call.params, call.history, call.inputs]

/-- The oracle gives a write the answer it had (R41). -/
theorem State.busWrite_replays (frame : List Byte) (s : State) : Replays none (State.busWrite frame) s := by
  obtain ⟨outcome, call⟩ := s.busWrite_spec frame
  refine ⟨[s.draws.okAt 0], [], fun os' a bs' b => ?_⟩
  rw [outcome, call.launch]
  rfl

/-- Bytes listed first are drawn first (R8). -/
theorem Draws.byteAt_listed (os : List Bool) (a : Nat) (bs bs' : List Byte) (b : Nat) :
    (List.range bs.length).map (Draws.mk os a (bs ++ bs') b).byteAt = bs := by
  refine List.ext_getElem (by simp) fun i hi _ => ?_
  have inside : i < bs.length := by simpa using hi
  simp [Draws.byteAt, List.getElem?_append_left inside, inside]

/-- With no chip attached a reply is the bytes listed first (R43). -/
theorem State.reply_listed (s : State) (out : List Byte) (os : List Bool) (a : Nat) (bs bs' : List Byte) (b : Nat) :
    (s.launch none ⟨os, a, bs ++ bs', b⟩).reply out bs.length =
      (bs, s.launch none ⟨os, a, bs', b + bs.length⟩) := by
  refine Prod.ext (Draws.byteAt_listed os a bs bs' b) ?_
  show s.launch none ⟨os, a, (bs ++ bs').drop bs.length, b + bs.length⟩ = _
  rw [List.drop_left]

/-- The oracle gives a transfer the answer and the bytes it had (R42). -/
theorem State.busTransfer_replays (out : List Byte) (n : Nat) (s : State) :
    Replays none (State.busTransfer out n) s := by
  cases o : s.draws.okAt 0 with
  | false =>
    obtain ⟨outcome, call⟩ := s.busTransfer_err out n o
    refine ⟨[false], [], fun os' a bs' b => ?_⟩
    rw [outcome, call.launch]
    rfl
  | true =>
    obtain ⟨bytes, rfl, outcome, call⟩ := s.busTransfer_ok out n o
    refine ⟨[true], bytes, fun os' a bs' b => ?_⟩
    have reply := s.reply_listed out os' (a + 1) bytes bs' b
    have answered : (s.launch none ⟨true :: os', a, bytes ++ bs', b⟩).tick.drawOk =
      (true, s.launch none ⟨os', a + 1, bytes ++ bs', b⟩) := rfl
    rw [outcome, call.launch]
    simp only [State.busTransfer, List.cons_append, List.nil_append, answered, reply, if_true]
    rfl

theorem State.wrSeconds_replays (v : Nat) (s : State) : Replays none (State.wrSeconds v) s :=
  have addr : Replays none (fun u => (u.addr .seconds false, u)) s := .pure fun _ => rfl
  addr.chain fun a t => (t.bcdEnc_replays none v).chain fun d t => t.busWrite_replays [a, bitRev d]

/-! ### The commands, replayed by the oracle -/

/-- The command's body does on the oracle what it does on `s`. -/
def ReplaysBody (body : State → State) (s : State) : Prop := Replays none (fun u => ((), body u)) s

section
variable {α : Type} {op : State → α × State} {s : State} {body : State → State}

/-- A body that only writes the block's registers. -/
theorem ReplaysBody.pure (h : ∀ d, body (s.launch none d) = (body s).launch none d) : ReplaysBody body s :=
  Replays.pure fun d => by rw [h d]

/-- A body that goes on as `rest` once `op` has given the result it gives on `s`. -/
theorem ReplaysBody.after {rest : State → State} (first : Replays none op s) (second : ReplaysBody rest (op s).2)
    (split : ∀ c d, (op (s.launch c d)).1 = (op s).1 → body (s.launch c d) = rest (op (s.launch c d)).2) :
    ReplaysBody body s :=
  first.bind second fun c d same => by rw [split c d same]

end

theorem State.rdSecondsRaw_replays (s : State) : Replays none State.rdSecondsRaw s :=
  have addr : Replays none (fun u => (u.addr .seconds true, u)) s := .pure fun _ => rfl
  addr.chain fun a t => (t.busTransfer_replays [a] 1).chain
    fun received _ => .pure (op := fun u => (received.map fun bytes => byteAt bytes 0, u)) fun _ => rfl

theorem getSecondsBody_replays (s : State) : ReplaysBody getSecondsBody s := by
  cases h : s.rdSecondsRaw.1 with
  | none =>
    exact .after s.rdSecondsRaw_replays (.pure (body := State.raise .transportError) fun _ => rfl)
      fun _ _ same => getSecondsBody_of_none _ (same.trans h)
  | some b =>
    exact .after s.rdSecondsRaw_replays (.pure (body := fun t => (t.setResByte b).complete) fun _ => rfl)
      fun _ _ same => getSecondsBody_of_some _ b (same.trans h)

/-- The end of GET_CLOCK looks at the parameters and its bytes alone. -/
theorem finishClock_replays (c : List Byte) (s : State) : ReplaysBody (finishClock c) s := by
  refine .pure fun d => ?_
  rw [finishClock, finishClock, apply_ite (fun t : State => t.launch none d)]
  rfl

theorem finishCalClock_replays (c : List Byte) (s : State) : ReplaysBody (finishCalClock c) s := by
  refine .pure fun d => ?_
  rw [finishCalClock, finishCalClock, apply_ite (fun t : State => t.launch none d)]
  rfl

theorem getClockBody_replays (s : State) : ReplaysBody getClockBody s := by
  cases h : (s.busTransfer (burstReadOut s) 3).1 with
  | none =>
    exact .after (s.busTransfer_replays (burstReadOut s) 3) (.pure (body := State.raise .transportError) fun _ => rfl)
      fun _ _ same => getClockBody_of_none _ (same.trans h)
  | some r =>
    exact .after (s.busTransfer_replays (burstReadOut s) 3) (finishClock_replays (clockBytes s.params r) _)
      fun _ _ same => getClockBody_of_some _ r (same.trans h)

theorem getCalClockBody_replays (s : State) : ReplaysBody getCalClockBody s := by
  cases h : (s.busTransfer (burstReadOut s) 8).1 with
  | none =>
    exact .after (s.busTransfer_replays (burstReadOut s) 8) (.pure (body := State.raise .transportError) fun _ => rfl)
      fun _ _ same => getCalClockBody_of_none _ (same.trans h)
  | some r =>
    exact .after (s.busTransfer_replays (burstReadOut s) 8) (finishCalClock_replays (calBytes r) _)
      fun _ _ same => getCalClockBody_of_some _ r (same.trans h)

/-- The end of a write looks at its answer alone. -/
theorem endWrite_replays {op : State → Bool × State} {s : State} (write : Replays none op s) :
    ReplaysBody (fun u => State.endWrite (op u)) s := by
  cases h : (op s).1 with
  | true =>
    exact .after write (.pure (body := State.complete) fun _ => rfl) fun _ _ same => State.endWrite_ok (same.trans h)
  | false =>
    exact .after write (.pure (body := State.raise .transportError) fun _ => rfl)
      fun _ _ same => State.endWrite_err (same.trans h)

theorem setCalClock_replays (p : Ports) (s : State) :
    ReplaysBody (fun u => State.endWrite ((u.calFrame p).2.busWrite (u.calFrame p).1)) s :=
  endWrite_replays ((s.calFrame_replays none p).chain fun frame t => t.busWrite_replays frame)

theorem initStep3_replays (b : Byte) (s : State) : ReplaysBody (initStep3 b) s := by
  cases hb : b.getLsbD 7 with
  | false => exact .pure fun d => by rw [initStep3_of_clear b _ hb, initStep3_of_clear b _ hb]; rfl
  | true =>
    cases h : (s.wrSeconds 0).1 with
    | true =>
      exact .after (s.wrSeconds_replays 0) (.pure (body := fun t => t.becomeReady.complete) fun _ => rfl)
        fun _ _ same => initStep3_of_ok b _ hb (same.trans h)
    | false =>
      exact .after (s.wrSeconds_replays 0) (.pure (body := State.raise .transportError) fun _ => rfl)
        fun _ _ same => initStep3_of_err b _ hb (same.trans h)

theorem initStep2_replays (s : State) : ReplaysBody initStep2 s := by
  cases h : s.rdSecondsRaw.1 with
  | none =>
    exact .after s.rdSecondsRaw_replays (.pure (body := State.raise .transportError) fun _ => rfl)
      fun _ _ same => initStep2_of_none _ (same.trans h)
  | some b =>
    exact .after s.rdSecondsRaw_replays (initStep3_replays b _) fun _ _ same => initStep2_of_some _ b (same.trans h)

theorem initBody_replays (s : State) : ReplaysBody initBody s := by
  cases h : (s.busWrite (wpFrame s)).1 with
  | true =>
    exact .after (s.busWrite_replays (wpFrame s)) (initStep2_replays _) fun _ _ same => initBody_of_ok _ (same.trans h)
  | false =>
    exact .after (s.busWrite_replays (wpFrame s)) (.pure (body := State.raise .transportError) fun _ => rfl)
      fun _ _ same => initBody_of_err _ (same.trans h)

/-- A command that runs `body`, with the chip and alone, is covered by the oracle when `body` is replayed (R43). -/
theorem ReplaysBody.covers {i : Instr} {s t : State} {body : State → State} (replays : ReplaysBody body s)
    (attached : exec i s = .next (body s)) (alone : ∀ d, exec i (s.launch none d) = .next (body (s.launch none d)))
    (h : exec i s = .next t) :
    ∃ (d : Draws) (u : State), exec i { s with chip := none, draws := d } = .next u ∧
      u.regs = t.regs ∧ u.history = t.history := by
  obtain ⟨os, bs, replays⟩ := replays
  obtain rfl := Host.Outcome.next.inj (attached.symm.trans h)
  have same : body (s.launch none ⟨os ++ [], 0, bs ++ [], 0⟩) = _ := congrArg Prod.snd (replays [] 0 [] 0)
  exact ⟨_, _, alone ⟨os ++ [], 0, bs ++ [], 0⟩, by rw [same]; rfl, by rw [same]; rfl⟩

/-- A command stopped by check 2 sees no chip (R163). -/
theorem oracle_covers_of_uninit {i : Instr} {s t : State} (needs : i.needsInit = true)
    (uninit : s.regs.initState = .uninit) (h : exec i s = .next t) :
    ∃ (d : Draws) (u : State), exec i { s with chip := none, draws := d } = .next u ∧
      u.regs = t.regs ∧ u.history = t.history :=
  ReplaysBody.covers (.pure fun _ => rfl) (exec_of_uninit i s needs uninit)
    (fun _ => exec_of_uninit i _ needs uninit) h

/-- Settles O47: each command's body is replayed by the oracle. -/
theorem oracleCoversChip : Obligations.OracleCoversChip := by
  intro i s t h
  by_cases early : i.needsInit = true ∧ s.regs.initState = .uninit
  · obtain ⟨needs, uninit⟩ := early
    exact oracle_covers_of_uninit needs uninit h
  have ready : i.needsInit = true → s.regs.initState = .ready := fun needs => by
    cases hi : s.regs.initState with
    | ready => rfl
    | uninit => exact absurd ⟨needs, hi⟩ early
  cases i with
  | bcdEnc v =>
    have body : ReplaysBody (fun u => ((u.bcdEnc v.toNat).2.setResByte (u.bcdEnc v.toNat).1).complete) s :=
      .after (s.bcdEnc_replays none v.toNat)
        (.pure (body := fun u => (u.setResByte (s.bcdEnc v.toNat).1).complete) fun _ => rfl)
        fun _ _ same => by rw [same]
    exact body.covers rfl (fun _ => rfl) h
  | bcdDec b =>
    by_cases accept : s.params.decodeCheck = false ∨ Decimal b
    · have body : ReplaysBody (fun u => (u.setResByte (bcdDec b)).complete) s := .pure fun _ => rfl
      exact body.covers (exec_bcdDec_of_accept b s accept) (fun _ => exec_bcdDec_of_accept b _ accept) h
    · obtain ⟨on, invalid⟩ := not_or.mp accept
      have on : s.params.decodeCheck = true := by simpa using on
      have body : ReplaysBody (State.raise .decodeError) s := .pure fun _ => rfl
      exact body.covers (exec_bcdDec_of_reject b s on invalid) (fun _ => exec_bcdDec_of_reject b _ on invalid) h
  | bitRev b =>
    have body : ReplaysBody (fun u => (u.setResByte (bitRev b)).complete) s := .pure fun _ => rfl
    exact body.covers rfl (fun _ => rfl) h
  | makeAddr rd r =>
    have body : ReplaysBody (fun u => (u.setResByte (u.addr r rd)).complete) s := .pure fun _ => rfl
    exact body.covers rfl (fun _ => rfl) h
  | init =>
    cases hi : s.regs.initState with
    | uninit => exact (initBody_replays s).covers (exec_init_uninit s hi) (fun _ => exec_init_uninit _ hi) h
    | ready =>
      have body : ReplaysBody (State.raise .alreadyInitialised) s := .pure fun _ => rfl
      exact body.covers (exec_init_ready s hi) (fun _ => exec_init_ready _ hi) h
  | getSeconds =>
    exact (getSecondsBody_replays s).covers (exec_getSeconds_ready s (ready rfl))
      (fun _ => exec_getSeconds_ready _ (ready rfl)) h
  | setSeconds v =>
    exact (endWrite_replays (s.wrSeconds_replays v.toNat)).covers (exec_setSeconds_ready v s (ready rfl))
      (fun _ => exec_setSeconds_ready v _ (ready rfl)) h
  | getClock =>
    exact (getClockBody_replays s).covers (exec_getClock_ready s (ready rfl))
      (fun _ => exec_getClock_ready _ (ready rfl)) h
  | getCalClock =>
    exact (getCalClockBody_replays s).covers (exec_getCalClock_ready s (ready rfl))
      (fun _ => exec_getCalClock_ready _ (ready rfl)) h
  | setCalClock p =>
    cases hits : s.burstHitsRam with
    | true => rw [exec_setCalClock_ram p s (ready rfl) hits] at h; cases h
    | false =>
      exact (setCalClock_replays p s).covers (exec_setCalClock_ready p s (ready rfl) hits)
        (fun _ => exec_setCalClock_ready p _ (ready rfl) rfl) h

end Sys2Proof.Machine
end
